-- ==== Sys2Proof/Word.lean ====
section
/-! DEFINITION. The word types of the GFAU (spec/00_scope.md R3, R4): command words, bytes, element and accumulator
registers, and the three field widths that a configuration selects. -/

namespace Sys2Proof

/-- A 32-bit command word `W` (R3, R45). -/
abbrev Word := BitVec 32

/-- One byte of the scratchpad (R22). -/
abbrev Byte := BitVec 8

/-- The contents of an element register: 48 bits (R17). -/
abbrev Elem := BitVec 48

/-- The contents of the accumulator: 96 bits (R21). -/
abbrev Accum := BitVec 96

/-- A 16-bit immediate, byte address or item count of a command word or descriptor (R19, R49). -/
abbrev Half := BitVec 16

/-- The three field widths, n = 32, 40, 48 for λ = 4, 5, 6; there are no others (R2). -/
inductive Width where
  /-- λ = 4, n = 32 -/
  | w32
  /-- λ = 5, n = 40 -/
  | w40
  /-- λ = 6, n = 48 -/
  | w48
deriving DecidableEq, Repr

end Sys2Proof
end

