-- ==== Sys2Proof/Syntax.lean ====
section
/-! DEFINITION. The command set GFAU-CS 1.0: one constructor for each of the 37 rows of spec/30_encoding.md R50, with the operands
of that row in the order of its "operands" column (R54). An operand's type is its field: a 4-bit register field always names
one of 16 registers and an immediate is unsigned and used as it stands (R48, R49), so every term is a legal command. -/

namespace Sys2Proof

/-- The number of an element register `E0` to `E15` (R17). -/
abbrev EReg := Fin 16

/-- The number of a descriptor register `D0` to `D15` (R19). -/
abbrev DReg := Fin 16

/-- The commands (R50). -/
inductive Instr where
  /-- `NOP` (R60) -/
  | nop
  /-- `CFG imm16` (R61) -/
  | cfg (lam : Half)
  /-- `STAT` (R62) -/
  | stat
  /-- `RDECMD` (R63) -/
  | rdecmd
  /-- `CLRERR` (R65) -/
  | clrerr
  /-- `MWB addr16, imm8` (R66) -/
  | mwb (addr : Half) (imm : Byte)
  /-- `MRB addr16` (R67) -/
  | mrb (addr : Half)
  /-- `DBASE Dd, imm16` (R68) -/
  | dbase (d : DReg) (imm : Half)
  /-- `DLEN Dd, imm16` (R69) -/
  | dlen (d : DReg) (imm : Half)
  /-- `DGET Dd` (R70) -/
  | dget (d : DReg)
  /-- `ELI Ed, imm16` (R80) -/
  | eli (d : EReg) (imm : Half)
  /-- `ELIS Ed, imm16` (R81) -/
  | elis (d : EReg) (imm : Half)
  /-- `EGET Ed` (R82) -/
  | eget (d : EReg)
  /-- `EMOV Ed, Ea` (R83) -/
  | emov (d a : EReg)
  /-- `EADD Ed, Ea, Eb` (R84) -/
  | eadd (d a b : EReg)
  /-- `EMUL Ed, Ea, Eb` (R85) -/
  | emul (d a b : EReg)
  /-- `EINV Ed, Ea` (R86) -/
  | einv (d a : EReg)
  /-- `ECMP Ea, Eb` (R87) -/
  | ecmp (a b : EReg)
  /-- `ELD Ed, Da, imm16` (R88) -/
  | eld (d : EReg) (a : DReg) (idx : Half)
  /-- `EST Ed, Da, imm16` (R89): `Ed` is the register stored -/
  | est (d : EReg) (a : DReg) (idx : Half)
  /-- `ACLR` (R101) -/
  | aclr
  /-- `CLMUL Ea, Eb` (R102) -/
  | clmul (a b : EReg)
  /-- `CLMAC Ea, Eb` (R103) -/
  | clmac (a b : EReg)
  /-- `ARED Ed` (R104) -/
  | ared (d : EReg)
  /-- `AGETL` (R105) -/
  | agetl
  /-- `AGETH` (R106) -/
  | ageth
  /-- `LIFTI Ed, imm8` (R119) -/
  | lifti (d : EReg) (imm : Byte)
  /-- `VLIFT Dd, Da` (R120) -/
  | vlift (d a : DReg)
  /-- `PGEN Dd, imm16` (R128) -/
  | pgen (d : DReg) (cnt : Half)
  /-- `PROOTS Dd, Da` (R129) -/
  | proots (d a : DReg)
  /-- `PEVAL Ed, Da, Eb` (R130) -/
  | peval (d : EReg) (a : DReg) (b : EReg)
  /-- `LPRE Dd, Da` (R137) -/
  | lpre (d a : DReg)
  /-- `LINT Dd, Da, Db` (R139) -/
  | lint (d a b : DReg)
  /-- `VADD Dd, Da, Db` (R146) -/
  | vadd (d a b : DReg)
  /-- `VSCALE Dd, Da, Eb` (R147) -/
  | vscale (d a : DReg) (b : EReg)
  /-- `VDOT Ed, Da, Db` (R148) -/
  | vdot (d : EReg) (a b : DReg)
  /-- `VCONV Dd, Da, Db` (R149) -/
  | vconv (d a b : DReg)
deriving DecidableEq, Repr

/-- The pseudo-instructions of the assembler (R55). None has an encoding of its own; `Sys2Proof.Machine.Pseudo.expand`
(Machine/Assembler.lean) gives the commands each stands for. The wide constants are numbers, whose range is checked in
WellFormed.lean. -/
inductive Pseudo where
  | esub (d a b : EReg)
  | esqr (d a : EReg)
  | ezero (d : EReg)
  | eone (d : EReg)
  | eli32 (d : EReg) (v : Nat)
  | eli48 (d : EReg) (v : Nat)
  | dset (d : DReg) (base len : Half)
  | vsub (d a b : DReg)
  | vacc (d a : DReg)
  | pmul (d a b : DReg)
deriving DecidableEq, Repr

end Sys2Proof
end

