-- ==== Sys2Proof/WellFormed.lean ====
section
/-! DEFINITION. Which command words and which pseudo-instructions are well formed.

An `Instr` needs no check of its own: its operand types admit exactly the values of its fields (R48: "all 16 values are
legal, so a register field can never make a word illegal"). What can be ill formed is a raw 32-bit WORD (an unassigned
opcode, or a bit set in a must-be-zero field: R51), and a pseudo-instruction's wide constant (R55). The opcode map below is
R50's table copied row by row as match and mask; the decoder (Decode.lean) is written from the formats of R48 instead, and
that the two agree is a statement of its own. -/

namespace Sys2Proof

/-- One row of the opcode map (R50): a word `W` selects the row when `W &&& mask = pattern`; `needsCfg` is the column "cfg". -/
structure OpcodeRow where
  mnemonic : String
  pattern : Word
  mask : Word
  needsCfg : Bool
deriving DecidableEq, Repr

/-- Family 0x0_: system, host memory and descriptors (R50). -/
def systemRows : List OpcodeRow := [
  ⟨"NOP", 0x00000000#32, 0xFFFFFFFF#32, false⟩,
  ⟨"CFG", 0x01000000#32, 0xFFFF0000#32, false⟩,
  ⟨"STAT", 0x02000000#32, 0xFFFFFFFF#32, false⟩,
  ⟨"RDECMD", 0x03000000#32, 0xFFFFFFFF#32, false⟩,
  ⟨"CLRERR", 0x04000000#32, 0xFFFFFFFF#32, false⟩,
  ⟨"MWB", 0x08000000#32, 0xFF000000#32, false⟩,
  ⟨"MRB", 0x09000000#32, 0xFF0000FF#32, false⟩,
  ⟨"DBASE", 0x0A000000#32, 0xFF0F0000#32, false⟩,
  ⟨"DLEN", 0x0B000000#32, 0xFF0F0000#32, false⟩,
  ⟨"DGET", 0x0C000000#32, 0xFF0FFFFF#32, false⟩]

/-- Family 0x1_: element arithmetic (R50). -/
def elementRows : List OpcodeRow := [
  ⟨"ELI", 0x10000000#32, 0xFF0F0000#32, true⟩,
  ⟨"ELIS", 0x11000000#32, 0xFF0F0000#32, true⟩,
  ⟨"EGET", 0x12000000#32, 0xFF0FFFFF#32, true⟩,
  ⟨"EMOV", 0x13000000#32, 0xFF00FFFF#32, true⟩,
  ⟨"EADD", 0x14000000#32, 0xFF000FFF#32, true⟩,
  ⟨"EMUL", 0x15000000#32, 0xFF000FFF#32, true⟩,
  ⟨"EINV", 0x16000000#32, 0xFF00FFFF#32, true⟩,
  ⟨"ECMP", 0x17000000#32, 0xFFF00FFF#32, true⟩,
  ⟨"ELD", 0x18000000#32, 0xFF000000#32, true⟩,
  ⟨"EST", 0x19000000#32, 0xFF000000#32, true⟩]

/-- Family 0x2_: carry-less multiplier and accumulator (R50). -/
def accumulatorRows : List OpcodeRow := [
  ⟨"ACLR", 0x20000000#32, 0xFFFFFFFF#32, true⟩,
  ⟨"CLMUL", 0x21000000#32, 0xFFF00FFF#32, true⟩,
  ⟨"CLMAC", 0x22000000#32, 0xFFF00FFF#32, true⟩,
  ⟨"ARED", 0x23000000#32, 0xFF0FFFFF#32, true⟩,
  ⟨"AGETL", 0x24000000#32, 0xFFFFFFFF#32, true⟩,
  ⟨"AGETH", 0x25000000#32, 0xFFFFFFFF#32, true⟩]

/-- Families 0x3_ to 0x6_: lifting, polynomial, Lagrange, vector (R50). -/
def vectorRows : List OpcodeRow := [
  ⟨"LIFTI", 0x30000000#32, 0xFF0FFF00#32, true⟩,
  ⟨"VLIFT", 0x31000000#32, 0xFF00FFFF#32, true⟩,
  ⟨"PGEN", 0x40000000#32, 0xFF0F0000#32, true⟩,
  ⟨"PROOTS", 0x41000000#32, 0xFF00FFFF#32, true⟩,
  ⟨"PEVAL", 0x42000000#32, 0xFF000FFF#32, true⟩,
  ⟨"LPRE", 0x50000000#32, 0xFF00FFFF#32, true⟩,
  ⟨"LINT", 0x51000000#32, 0xFF000FFF#32, true⟩,
  ⟨"VADD", 0x60000000#32, 0xFF000FFF#32, true⟩,
  ⟨"VSCALE", 0x61000000#32, 0xFF000FFF#32, true⟩,
  ⟨"VDOT", 0x62000000#32, 0xFF000FFF#32, true⟩,
  ⟨"VCONV", 0x63000000#32, 0xFF000FFF#32, true⟩]

/-- The opcode map, 37 rows (R50). -/
def opcodeRows : List OpcodeRow := systemRows ++ elementRows ++ accumulatorRows ++ vectorRows

/-- The row's selection test (R50). -/
def OpcodeRow.selects (r : OpcodeRow) (w : Word) : Bool := w &&& r.mask == r.pattern

/-- A legal word: one that some row selects (R51). -/
def legalWord (w : Word) : Bool := opcodeRows.any (fun r => r.selects w)

/-- The mnemonic of a command's row (R50). -/
def Instr.mnemonic : Instr → String
  | .nop => "NOP"
  | .cfg .. => "CFG"
  | .stat => "STAT"
  | .rdecmd => "RDECMD"
  | .clrerr => "CLRERR"
  | .mwb .. => "MWB"
  | .mrb .. => "MRB"
  | .dbase .. => "DBASE"
  | .dlen .. => "DLEN"
  | .dget .. => "DGET"
  | .eli .. => "ELI"
  | .elis .. => "ELIS"
  | .eget .. => "EGET"
  | .emov .. => "EMOV"
  | .eadd .. => "EADD"
  | .emul .. => "EMUL"
  | .einv .. => "EINV"
  | .ecmp .. => "ECMP"
  | .eld .. => "ELD"
  | .est .. => "EST"
  | .aclr => "ACLR"
  | .clmul .. => "CLMUL"
  | .clmac .. => "CLMAC"
  | .ared .. => "ARED"
  | .agetl => "AGETL"
  | .ageth => "AGETH"
  | .lifti .. => "LIFTI"
  | .vlift .. => "VLIFT"
  | .pgen .. => "PGEN"
  | .proots .. => "PROOTS"
  | .peval .. => "PEVAL"
  | .lpre .. => "LPRE"
  | .lint .. => "LINT"
  | .vadd .. => "VADD"
  | .vscale .. => "VSCALE"
  | .vdot .. => "VDOT"
  | .vconv .. => "VCONV"

/-- The range of a pseudo-instruction's constant: `ELI32` takes v < 2^32 and `ELI48` takes v < 2^48 (R55). -/
def Pseudo.wellFormed : Pseudo → Bool
  | .eli32 _ v => decide (v < 2 ^ 32)
  | .eli48 _ v => decide (v < 2 ^ 48)
  | .esub .. => true
  | .esqr .. => true
  | .ezero .. => true
  | .eone .. => true
  | .dset .. => true
  | .vsub .. => true
  | .vacc .. => true
  | .pmul .. => true

end Sys2Proof
end

