-- ==== Sys2Proof/Decode.lean ====
section
/-! DEFINITION. The decoder and the encoder of command words, written from the ten formats of spec/30_encoding.md R48.
`decode` is total on the 2^32 words and rejects by name (R51). `encode` is the word of a command (R54). -/

namespace Sys2Proof

/-- Why a word is no command (R51). Both are reported by the machine as the one error `IllegalCommand`. -/
inductive DecodeError where
  /-- `W[31:24]` is none of the 37 opcodes. -/
  | unassignedOpcode
  /-- The opcode is listed, and a must-be-zero field of its format is not zero. -/
  | mustBeZero
deriving DecidableEq, Repr

/-! ## Fields (R48) -/

/-- `op = W[31:24]` -/
def opField (w : Word) : BitVec 8 := w.extractLsb' 24 8
/-- `rd = W[23:20]` -/
def rdField (w : Word) : Fin 16 := (w.extractLsb' 20 4).toFin
/-- `ra = W[19:16]` -/
def raField (w : Word) : Fin 16 := (w.extractLsb' 16 4).toFin
/-- `rb = W[15:12]` -/
def rbField (w : Word) : Fin 16 := (w.extractLsb' 12 4).toFin
/-- `imm16 = W[15:0]` -/
def imm16Field (w : Word) : Half := w.extractLsb' 0 16
/-- `imm8 = W[7:0]` -/
def imm8Field (w : Word) : Byte := w.extractLsb' 0 8
/-- `addr16 = W[23:8]` -/
def addr16Field (w : Word) : Half := w.extractLsb' 8 16

/-- The command `i`, if the must-be-zero field `z` of its format is zero (R48, R51). -/
def ifZero {n : Nat} (z : BitVec n) (i : Instr) : Except DecodeError Instr :=
  if z = 0 then .ok i else .error .mustBeZero

/-! ## The ten formats (R48): each names its must-be-zero fields -/

/-- Format Z: `W[23:0] = 0`. -/
def decodeZ (w : Word) (i : Instr) : Except DecodeError Instr := ifZero (w.extractLsb' 0 24) i
/-- Format C: `W[23:16] = 0`. -/
def decodeC (w : Word) (i : Half → Instr) : Except DecodeError Instr :=
  ifZero (w.extractLsb' 16 8) (i (imm16Field w))
/-- Format M of `MWB`: every bit is a field. -/
def decodeM (w : Word) (i : Half → Byte → Instr) : Except DecodeError Instr :=
  .ok (i (addr16Field w) (imm8Field w))
/-- Format M of `MRB`: `W[7:0] = 0`. -/
def decodeMR (w : Word) (i : Half → Instr) : Except DecodeError Instr :=
  ifZero (w.extractLsb' 0 8) (i (addr16Field w))
/-- Format R1: `W[19:0] = 0`. -/
def decodeR1 (w : Word) (i : Fin 16 → Instr) : Except DecodeError Instr :=
  ifZero (w.extractLsb' 0 20) (i (rdField w))
/-- Format R2: `W[15:0] = 0`. -/
def decodeR2 (w : Word) (i : Fin 16 → Fin 16 → Instr) : Except DecodeError Instr :=
  ifZero (w.extractLsb' 0 16) (i (rdField w) (raField w))
/-- Format R3: `W[11:0] = 0`. -/
def decodeR3 (w : Word) (i : Fin 16 → Fin 16 → Fin 16 → Instr) : Except DecodeError Instr :=
  ifZero (w.extractLsb' 0 12) (i (rdField w) (raField w) (rbField w))
/-- Format RAB: `W[23:20] = 0` and `W[11:0] = 0`. -/
def decodeRAB (w : Word) (i : Fin 16 → Fin 16 → Instr) : Except DecodeError Instr :=
  ifZero (w.extractLsb' 20 4 ++ w.extractLsb' 0 12) (i (raField w) (rbField w))
/-- Format I: `W[19:16] = 0`. -/
def decodeI (w : Word) (i : Fin 16 → Half → Instr) : Except DecodeError Instr :=
  ifZero (w.extractLsb' 16 4) (i (rdField w) (imm16Field w))
/-- Format IX: every bit is a field. -/
def decodeIX (w : Word) (i : Fin 16 → Fin 16 → Half → Instr) : Except DecodeError Instr :=
  .ok (i (rdField w) (raField w) (imm16Field w))
/-- Format I8: `W[19:8] = 0`. -/
def decodeI8 (w : Word) (i : Fin 16 → Byte → Instr) : Except DecodeError Instr :=
  ifZero (w.extractLsb' 8 12) (i (rdField w) (imm8Field w))

/-- The decoder (R52 step 2): the opcode byte selects the row, the row's format gives the operands and checks the zeros. -/
def decode (w : Word) : Except DecodeError Instr :=
  match (opField w).toNat with
  | 0x00 => decodeZ w .nop
  | 0x01 => decodeC w .cfg
  | 0x02 => decodeZ w .stat
  | 0x03 => decodeZ w .rdecmd
  | 0x04 => decodeZ w .clrerr
  | 0x08 => decodeM w .mwb
  | 0x09 => decodeMR w .mrb
  | 0x0A => decodeI w .dbase
  | 0x0B => decodeI w .dlen
  | 0x0C => decodeR1 w .dget
  | 0x10 => decodeI w .eli
  | 0x11 => decodeI w .elis
  | 0x12 => decodeR1 w .eget
  | 0x13 => decodeR2 w .emov
  | 0x14 => decodeR3 w .eadd
  | 0x15 => decodeR3 w .emul
  | 0x16 => decodeR2 w .einv
  | 0x17 => decodeRAB w .ecmp
  | 0x18 => decodeIX w .eld
  | 0x19 => decodeIX w .est
  | 0x20 => decodeZ w .aclr
  | 0x21 => decodeRAB w .clmul
  | 0x22 => decodeRAB w .clmac
  | 0x23 => decodeR1 w .ared
  | 0x24 => decodeZ w .agetl
  | 0x25 => decodeZ w .ageth
  | 0x30 => decodeI8 w .lifti
  | 0x31 => decodeR2 w .vlift
  | 0x40 => decodeI w .pgen
  | 0x41 => decodeR2 w .proots
  | 0x42 => decodeR3 w .peval
  | 0x50 => decodeR2 w .lpre
  | 0x51 => decodeR3 w .lint
  | 0x60 => decodeR3 w .vadd
  | 0x61 => decodeR3 w .vscale
  | 0x62 => decodeR3 w .vdot
  | 0x63 => decodeR3 w .vconv
  | _ => .error .unassignedOpcode

/-! ## The encoder: the opcode in `W[31:24]`, each operand in its field, zero elsewhere (R54) -/

/-- A register number in its 4-bit field (R48). -/
def regBits (r : Fin 16) : BitVec 4 := BitVec.ofFin r

def encodeZ (op : BitVec 8) : Word := op ++ 0#24
def encodeC (op : BitVec 8) (imm : Half) : Word := op ++ 0#8 ++ imm
def encodeM (op : BitVec 8) (addr : Half) (imm : Byte) : Word := op ++ addr ++ imm
def encodeR1 (op : BitVec 8) (d : Fin 16) : Word := op ++ regBits d ++ 0#20
def encodeR2 (op : BitVec 8) (d a : Fin 16) : Word := op ++ regBits d ++ regBits a ++ 0#16
def encodeR3 (op : BitVec 8) (d a b : Fin 16) : Word := op ++ regBits d ++ regBits a ++ regBits b ++ 0#12
def encodeRAB (op : BitVec 8) (a b : Fin 16) : Word := op ++ 0#4 ++ regBits a ++ regBits b ++ 0#12
def encodeI (op : BitVec 8) (d : Fin 16) (imm : Half) : Word := op ++ regBits d ++ 0#4 ++ imm
def encodeIX (op : BitVec 8) (d a : Fin 16) (imm : Half) : Word := op ++ regBits d ++ regBits a ++ imm
def encodeI8 (op : BitVec 8) (d : Fin 16) (imm : Byte) : Word := op ++ regBits d ++ 0#12 ++ imm

/-- The command word of a command (R50, R54). -/
def encode : Instr → Word
  | .nop => encodeZ 0x00
  | .cfg lam => encodeC 0x01 lam
  | .stat => encodeZ 0x02
  | .rdecmd => encodeZ 0x03
  | .clrerr => encodeZ 0x04
  | .mwb addr imm => encodeM 0x08 addr imm
  | .mrb addr => encodeM 0x09 addr 0
  | .dbase d imm => encodeI 0x0A d imm
  | .dlen d imm => encodeI 0x0B d imm
  | .dget d => encodeR1 0x0C d
  | .eli d imm => encodeI 0x10 d imm
  | .elis d imm => encodeI 0x11 d imm
  | .eget d => encodeR1 0x12 d
  | .emov d a => encodeR2 0x13 d a
  | .eadd d a b => encodeR3 0x14 d a b
  | .emul d a b => encodeR3 0x15 d a b
  | .einv d a => encodeR2 0x16 d a
  | .ecmp a b => encodeRAB 0x17 a b
  | .eld d a idx => encodeIX 0x18 d a idx
  | .est d a idx => encodeIX 0x19 d a idx
  | .aclr => encodeZ 0x20
  | .clmul a b => encodeRAB 0x21 a b
  | .clmac a b => encodeRAB 0x22 a b
  | .ared d => encodeR1 0x23 d
  | .agetl => encodeZ 0x24
  | .ageth => encodeZ 0x25
  | .lifti d imm => encodeI8 0x30 d imm
  | .vlift d a => encodeR2 0x31 d a
  | .pgen d cnt => encodeI 0x40 d cnt
  | .proots d a => encodeR2 0x41 d a
  | .peval d a b => encodeR3 0x42 d a b
  | .lpre d a => encodeR2 0x50 d a
  | .lint d a b => encodeR3 0x51 d a b
  | .vadd d a b => encodeR3 0x60 d a b
  | .vscale d a b => encodeR3 0x61 d a b
  | .vdot d a b => encodeR3 0x62 d a b
  | .vconv d a b => encodeR3 0x63 d a b

/-- The host's question: the command the decoder reads from the low `nbits` bits of `w`, every bit above them 0. -/
def decodeTableWord (nbits w : Nat) : Option Instr := (decode (BitVec.ofNat 32 (w % 2 ^ nbits))).toOption

end Sys2Proof
end

