-- ==== Sys2Proof/Config.lean ====
section
/-! DEFINITION. What one instance of the unit fixes for good (the OPEN parameters of spec/00_scope.md R3), and the one value the
spec leaves free: the initial contents of the scratchpad (spec/70_reset_and_hazards.md R181, spec/93_implementation_defined.md U2). -/

namespace Sys2Proof

/-- The OPEN parameters of an instance (R3). No command and no reset changes them. Each field's type carries its range:
`MEM_BYTES` is 1 to 65536 (D7), and a generator image is an element of its own field (R117). That a generator is a root of
`AES_POLY` is the predicate `Sys2Proof.Machine.admissible` (Machine/Lifting.lean). -/
structure Config where
  /-- `MEM_BYTES` − 1, the highest scratchpad address (R3, R30). -/
  lastAddr : BitVec 16
  /-- `LIFT_GEN_32` (R117). -/
  liftGen32 : BitVec 32
  /-- `LIFT_GEN_40` (R117). -/
  liftGen40 : BitVec 40
  /-- `LIFT_GEN_48` (R117). -/
  liftGen48 : BitVec 48
deriving DecidableEq, Repr

/-- `MEM_BYTES`, the scratchpad's size in bytes (R3, R30). -/
def Config.memBytes (c : Config) : Nat := c.lastAddr.toNat + 1

/-- The reference values of the OPEN parameters (R3, R117): 65536 bytes, and the smallest root of `AES_POLY` in each field. -/
def Config.reference : Config where
  lastAddr := 0xFFFF#16
  liftGen32 := 0x40A46AFA#32
  liftGen40 := 0xCA748254#40
  liftGen48 := 0x293EF1396C8C#48

/-- The free initial contents of the scratchpad: `initialByte k a` is what byte `a` holds after the `k`-th reset as long as
nothing has written it. It has no body: nothing can be proved of its value, and nothing relates two resets (R181, R187;
log entry 1). -/
opaque Config.initialByte : Nat → Nat → Byte

end Sys2Proof
end

