-- ==== Sys2Proof/Machine/Field.lean ====
section
/-! DEFINITION. The pure functions of the datapath: the field widths and moduli (spec/42_clmul_reduce.md R98), the carry-less
product (R96), reduction by long division and by the pipeline (R99, R100), and the field operations (spec/41_element.md R75 to
R79). As in the spec, every function works on unbounded non-negative integers (spec/00_scope.md R4): bit `i` of a number is
the coefficient of x^i, and values are narrowed to registers only where a command writes one. -/

namespace Sys2Proof

/-- λ, the element byte size `bs` of a configuration (R2, R3). -/
def Width.bs : Width → Nat
  | .w32 => 4
  | .w40 => 5
  | .w48 => 6

/-- The field degree n = 8·λ (R2). -/
def Width.n (w : Width) : Nat := 8 * w.bs

/-- `MASK` = 2^n − 1 (R3). -/
def Width.mask (w : Width) : Nat := 2 ^ w.n - 1

/-- The modulus `P_n` (R98). -/
def Width.poly : Width → Nat
  | .w32 => 0x10000008D
  | .w40 => 0x10000000039
  | .w48 => 0x100000000002D

/-- The reduction constant `MU_n`, equal to the modulus for the three widths (R98). -/
def Width.mu (w : Width) : Nat := w.poly

end Sys2Proof

namespace Sys2Proof.Machine

/-- `f n`, with the number `n` computed before `f` starts. It IS `f n` (`strict_eq`); written with a match so that Lean's
kernel, which passes arguments unevaluated, works on numerals through the loops below. -/
def strict {α : Type} (n : Nat) (f : Nat → α) : α :=
  match n with
  | 0 => f 0
  | m + 1 => f (m + 1)

@[simp] theorem strict_eq {α : Type} (n : Nat) (f : Nat → α) : strict n f = f n := by
  cases n <;> rfl

/-- The partial products of the low `k` bits of `b` (R96). -/
def clmulBits (a b : Nat) : Nat → Nat
  | 0 => 0
  | k + 1 => clmulBits a b k ^^^ (if b.testBit k then a <<< k else 0)

/-- The carry-less product: bit k is the XOR over i + j = k of `a[i] & b[j]` (R96). No bit of `b` lies above `log2 b`. -/
def clmul (a b : Nat) : Nat :=
  strict a fun a => strict b fun b => clmulBits a b (b.log2 + 1)

/-- The long division of R99 from bit `n + j − 1` down to bit n. -/
def reduceFrom (w : Width) : Nat → Nat → Nat
  | 0, r => r
  | j + 1, r =>
    strict (if r.testBit (w.n + j) then r ^^^ (w.poly <<< j) else r) (reduceFrom w j)

/-- `reduce_n(R)` for R < 2^(2n): the remainder of R by `P_n` over GF(2) (R99, normative). -/
def reduce (w : Width) (r : Nat) : Nat := strict r (reduceFrom w w.n)

/-- `reduce_n` as the multiplier's pipeline computes it, in two carry-less multiplications (R95 stages S2 and S3, R100). -/
def reducePipeline (w : Width) (r : Nat) : Nat :=
  let t1 := clmul (r >>> w.n) w.mu
  let q := t1 >>> w.n
  let t2 := clmul q w.poly
  (r ^^^ t2) &&& w.mask

/-- Field addition and subtraction (R76). -/
def gfAdd (a b : Nat) : Nat := a ^^^ b

/-- Field multiplication (R77). -/
def gfMul (w : Width) (a b : Nat) : Nat := reduce w (clmul a b)

/-- The square-and-multiply loop of R79, at most `fuel` rounds. -/
def gfPowLoop (w : Width) : Nat → Nat → Nat → Nat → Nat
  | 0, r, _, _ => r
  | fuel + 1, r, a, e =>
    if e = 0 then r
    else strict (if e % 2 = 1 then gfMul w r a else r) fun r' =>
      strict (gfMul w a a) fun a' => strict (e / 2) fun e' => gfPowLoop w fuel r' a' e'

/-- `gf_pow(a, e)`, with `gf_pow(a, 0) = 1` (R79). The loop halves `e` each round, so `log2 e + 1` rounds reach 0. -/
def gfPow (w : Width) (a e : Nat) : Nat := gfPowLoop w (e.log2 + 1) 1 a e

/-- `gf_inv(a)` for a ≠ 0: the reference computation a^(2^n − 2) (R78). -/
def gfInv (w : Width) (a : Nat) : Nat := gfPow w a (2 ^ w.n - 2)

/-- The sum (XOR) of a list of elements. -/
def gfSum (l : List Nat) : Nat := l.foldr gfAdd 0

/-- The product of a list of elements, 1 for the empty list (R135). -/
def gfProd (w : Width) (l : List Nat) : Nat := l.foldr (gfMul w) 1

end Sys2Proof.Machine
end

