-- ==== Sys2Proof/Machine/State.lean ====
section
/-! DEFINITION. The state of the unit (spec/10_state.md section 1), the host's side of the two ports, and the state after reset
(spec/70_reset_and_hazards.md R181). -/

namespace Sys2Proof.Machine

/-- A descriptor register: `LEN` items beginning at byte `BASE` of the scratchpad (R19). -/
structure Descriptor where
  base : Half
  len : Half
deriving DecidableEq, Repr

/-- The answer to one command on the response port (R45). -/
structure Response where
  code : BitVec 4
  rdata : BitVec 64
deriving DecidableEq, Repr

/-- What the host does to the unit: it gives one command word on the command port (R45), or it resets the unit, between
commands (R180). -/
inductive HostEvent where
  | command (w : Word)
  | reset
deriving DecidableEq, Repr

/-- The error kinds that a command can raise: codes 1 to 7 of R156. Code 8, `Faulted`, is a response code only and is never
latched (R15), so it is no constructor. -/
inductive ErrorKind where
  | unsupportedConfig
  | sizeMismatch
  | interpInput
  | singular
  | unconfigured
  | illegalCommand
  | bounds
deriving DecidableEq, Repr

/-- The unit's architectural state (R10 to R24), its instance parameters, and the host's side of the ports. -/
structure State where
  /-- `LAMBDA` (R10): `none` is 0, no configuration since reset; 4, 5, 6 are the three widths, and no other value exists. -/
  lambda : Option Width
  /-- `EQ`, the only flag (R13). -/
  eq : Bool
  /-- `ERR`, the latched error code, 0 for none (R15). -/
  err : BitVec 4
  /-- `ECMD`, the command word that raised the latched error (R16). -/
  ecmd : Word
  /-- The element registers `E0` to `E15` (R17). -/
  e : Vector Elem 16
  /-- The descriptor registers `D0` to `D15` (R19). -/
  d : Vector Descriptor 16
  /-- The accumulator `ACC` (R21). -/
  acc : Accum
  /-- The scratchpad `MEM` (R22, R30): the bytes written since reset, by rising address. An address that is not listed has not
  been written and holds its free initial byte (R181, R187; log entry 1). -/
  mem : List Host.Cell
  /-- The MODEL's own: how many resets there have been, which picks the free initial bytes (log entry 1). -/
  epoch : Nat
  /-- The instance's OPEN parameters (R3). Nothing changes them (log entry 2). -/
  config : Config
  /-- The command port and the reset input: what the host will do, the next event first (R45, R180; log entry 3). -/
  pending : List HostEvent
  /-- The response port: the answer to the latest command, `none` when there has been none since reset (R45, R181). -/
  response : Option Response
deriving DecidableEq, Repr

/-- The state after reset of an instance with parameters `c`, at its `k`-th reset, with the events `p` still to come (R181). -/
def State.afterReset (c : Config) (k : Nat) (p : List HostEvent) : State where
  lambda := none
  eq := false
  err := 0
  ecmd := 0
  e := Vector.replicate 16 0
  d := Vector.replicate 16 ⟨0, 0⟩
  acc := 0
  mem := []
  epoch := k
  config := c
  pending := p
  response := none

/-- The machine right after reset (R181), with the reference parameters (R3); the host has not yet asked for anything. -/
def State.reset : State := State.afterReset Config.reference 0 []

/-- Why the machine could stop with a fault: no reason exists. Every error of the spec is an architected one, which the
command reports in its response and latches in `ERR` (R155, R160), so it is a next state; "the unit has no stuck state:
every (state, word) pair has exactly one successor" (93_implementation_defined.md U8). The type is empty, which is safe: no
step can stop the run. -/
inductive Fault where
deriving DecidableEq, Repr

/-- Why a step could be refused. -/
inductive Refusal where
  /-- Raised by an arm of `exec` whose instruction has no meaning yet; no arm raises it any more. Safe: the run stops. -/
  | notModelled (mnemonic : String)
deriving DecidableEq, Repr

end Sys2Proof.Machine
end

