-- ==== Sys2Proof/Machine/Flags.lean ====
section
/-! DEFINITION. The one flag of the unit and the status word that shows it (spec/10_state.md R13, R14). No arithmetic command sets
any flag: there is no carry, overflow, zero or sign flag (R13). -/

namespace Sys2Proof.Machine

/-- `EQ` after `ECMP`: equality of the stored 48-bit values (R13, R87). -/
def equalFlag (x y : Elem) : Bool := x == y

/-- A flag as one bit. -/
def flagBit (b : Bool) : Nat := if b then 1 else 0

/-- The 3-bit value of `LAMBDA`: 0 with no configuration, else λ (R10). -/
def lambdaCode : Option Width → Nat
  | none => 0
  | some w => w.bs

/-- `STATUS = (ERR << 4) | (EQ << 3) | LAMBDA` (R14, R62). -/
def statusWord (s : State) : Nat := (s.err.toNat <<< 4) ||| (flagBit s.eq <<< 3) ||| lambdaCode s.lambda

end Sys2Proof.Machine
end

