-- ==== Sys2Proof/Machine/Memory.lean ====
section
/-! DEFINITION. The scratchpad (spec/20_memory.md): its canonical form, bytes, and the little-endian accesses built from them in
one place. Addresses are unbounded natural numbers; nothing wraps (R30). -/

namespace Sys2Proof.Machine

/-- The byte listed at an address; `none` where nothing has been written since reset. -/
def Memory.lookup : List Host.Cell → Nat → Option Byte
  | [], _ => none
  | c :: m, a => if c.1 = a then some c.2 else Memory.lookup m a

/-- The list with the byte `v` at address `a`, in its place by rising address. -/
def Memory.insert : List Host.Cell → Nat → Byte → List Host.Cell
  | [], a, v => [(a, v)]
  | c :: m, a, v =>
    if a < c.1 then (a, v) :: c :: m
    else if a = c.1 then (a, v) :: m
    else c :: Memory.insert m a v

/-- The canonical form: addresses strictly rising. A listed byte has been written and an unlisted one has not, so no entry
says what an unlisted address would say (log entry 1). -/
abbrev Memory.wf (m : List Host.Cell) : Prop := m.Pairwise (fun x y => x.1 < y.1)

/-- `MEM[a]`: the latest byte written there, or the free initial byte (R39, R181, R187). -/
def State.byte (s : State) (a : Nat) : Byte := (Memory.lookup s.mem a).getD (Config.initialByte s.epoch a)

/-- `MEM[a] <- v`. -/
def State.setByte (s : State) (a : Nat) (v : Byte) : State := { s with mem := Memory.insert s.mem a v }

/-- `MemRead(addr, k)`: k bytes, the one at the lowest address least significant (R31). -/
def State.memRead (s : State) (addr : Nat) : Nat → Nat
  | 0 => 0
  | k + 1 => (s.byte addr).toNat + 256 * s.memRead (addr + 1) k

/-- `MemWrite(addr, k, v)`: the low k bytes of v, least significant first (R32). -/
def State.memWrite (s : State) (addr : Nat) : Nat → Nat → State
  | 0, _ => s
  | k + 1, v => (s.setByte addr (BitVec.ofNat 8 v)).memWrite (addr + 1) k (v / 256)

/-- `InRange(base, count, stride)`: an empty range is always in range (R34). -/
abbrev State.InRange (s : State) (base count stride : Nat) : Prop :=
  count = 0 ∨ base + count * stride ≤ s.config.memBytes

/-- The `count` items of `bs` bytes from `base` on, item j at `base + j·bs` (R33, R35). -/
def State.readItems (s : State) (bs base count : Nat) : List Nat :=
  (List.range count).map fun j => s.memRead (base + j * bs) bs

/-- The items of a list stored from `base` on, item j at `base + j·bs` (R33, R36). -/
def State.writeItems (s : State) (bs : Nat) : Nat → List Nat → State
  | _, [] => s
  | base, v :: vs => (s.memWrite base bs v).writeItems bs (base + bs) vs

end Sys2Proof.Machine
end

