-- ==== Sys2Proof/Machine/Ops.lean ====
section
/-! DEFINITION. The shared operations of the commands: registers, whole vectors, the response, raising an error (the unit's
exception entry) and clearing it (the return), the checks every command makes first, and reset. -/

namespace Sys2Proof.Machine

/-! ## Registers -/

/-- `E[i]` as a number (R4, R17). -/
def State.elem (s : State) (i : EReg) : Nat := (s.e[i.val]).toNat

/-- `E[i] <- v` (R17). -/
def State.setElem (s : State) (i : EReg) (v : Nat) : State := { s with e := s.e.set i.val (BitVec.ofNat 48 v) }

/-- `D[i].BASE` (R19). -/
def State.base (s : State) (i : DReg) : Nat := (s.d[i.val]).base.toNat

/-- `D[i].LEN` (R19). -/
def State.len (s : State) (i : DReg) : Nat := (s.d[i.val]).len.toNat

/-- `D[i].BASE <- v`; `LEN` is kept (R68). -/
def State.setBase (s : State) (i : DReg) (v : Half) : State :=
  { s with d := s.d.set i.val { s.d[i.val] with base := v } }

/-- `D[i].LEN <- v`; `BASE` is kept (R20, R69). -/
def State.setLen (s : State) (i : DReg) (v : Half) : State :=
  { s with d := s.d.set i.val { s.d[i.val] with len := v } }

/-- `ACC <- zext_96(v)` (R21). -/
def State.setAcc (s : State) (v : Nat) : State := { s with acc := BitVec.ofNat 96 v }

/-! ## Vectors -/

/-- `ReadVec(i)`: the items of an element vector (R35). -/
def State.readVec (s : State) (w : Width) (i : DReg) : List Nat := s.readItems w.bs (s.base i) (s.len i)

/-- `ReadBytes(i)`: the items of a byte vector, at stride 1 whatever the configuration (R35, D26). -/
def State.readBytes (s : State) (i : DReg) : List Nat := s.readItems 1 (s.base i) (s.len i)

/-- `WriteVec(i, list)`: the items from `BASE` upward, then `LEN <- L`; `BASE` and the old `LEN` play no other part (R20, R36). -/
def State.writeVec (s : State) (w : Width) (i : DReg) (l : List Nat) : State :=
  (s.writeItems w.bs (s.base i) l).setLen i (BitVec.ofNat 16 l.length)

/-! ## The response (R45) -/

/-- `respond(code, data)`. -/
def State.respond (s : State) (code : BitVec 4) (data : BitVec 64) : State := { s with response := some ⟨code, data⟩ }

/-- `respond(0, 0)`: the command is done and returns no data. -/
def State.ok (s : State) : State := s.respond 0 0

/-- `respond(0, zext_64(v))`: the command is done and returns `v`. -/
def State.okData (s : State) (v : Nat) : State := s.respond 0 (BitVec.ofNat 64 v)

/-! ## Errors: taking the unit's only exception, and the return from it -/

/-- The code of an error kind (R156). -/
def ErrorKind.code : ErrorKind → BitVec 4
  | .unsupportedConfig => 1
  | .sizeMismatch => 2
  | .interpInput => 3
  | .singular => 4
  | .unconfigured => 5
  | .illegalCommand => 6
  | .bounds => 7

/-- The response code `Faulted`, never latched in `ERR` (R15, R156). -/
def faultedCode : BitVec 4 := 8

/-- `raise X`, executed by the command word `w` (R160): the code goes to `ERR` and to the response, the word to `ECMD`, and no
other state is written (R161). -/
def State.raise (s : State) (w : Word) (x : ErrorKind) : State :=
  { s with err := x.code, ecmd := w, response := some ⟨x.code, 0⟩ }

/-- Leaving the faulted state: `ERR <- 0; ECMD <- 0` (R65, R163). Nothing is restored, since nothing else was changed. -/
def State.clearError (s : State) : State := { s with err := 0, ecmd := 0 }

/-- `raise X` by the command `i`, whose word is `encode i`. -/
def State.raiseBy (s : State) (i : Instr) (x : ErrorKind) : State := s.raise (encode i) x

/-- Step 1 of R52: in the faulted state the answer is `Faulted` and nothing else happens (R162); else the command goes on. -/
def whenRunning (s : State) (k : State) : State := if s.err = 0 then k else s.respond faultedCode 0

/-- Steps 1 and 3 of R52 for a command that needs a configuration: `Unconfigured` while `LAMBDA = 0` (R64); else the command
goes on with the active width. -/
def whenConfigured (i : Instr) (s : State) (k : Width → State) : State :=
  whenRunning s (match s.lambda with
    | none => s.raiseBy i .unconfigured
    | some w => k w)

/-- Steps 1 and 2 of R52 for a word that no row matches (R51). -/
def illegalCommand (w : Word) (s : State) : State := whenRunning s (s.raise w .illegalCommand)

/-! ## Configuration and reset -/

/-- The width that λ selects: 4, 5 and 6 are the only values supported (R2, R61). -/
def widthOf (lam : Nat) : Option Width :=
  if lam = 4 then some .w32 else if lam = 5 then some .w40 else if lam = 6 then some .w48 else none

/-- A successful configuration: `LAMBDA` is set and every element register, `ACC` and `EQ` are cleared, also when λ is the active
one; descriptors, memory, `ERR` and `ECMD` stay (R61). The lifting table is a function of `LAMBDA` and needs no field (R23). -/
def State.configure (s : State) (w : Width) : State :=
  { s with lambda := some w, e := Vector.replicate 16 0, acc := 0, eq := false }

/-- The reset event (R180, R181): the reset values everywhere, no response, and a scratchpad about whose contents nothing is
known, not even that they are those of the reset before. The host's further events are still to come. -/
def State.resetUnit (s : State) : State := State.afterReset s.config (s.epoch + 1) s.pending

end Sys2Proof.Machine
end

