-- ==== Sys2Proof/Machine/Operands.lean ====
section
/-! DEFINITION. The operand forms of the commands (spec/30_encoding.md R48, R49): an element register (`State.elem`), a
descriptor named as a whole vector, and descriptor plus immediate index, the one addressing mode (spec/41_element.md section 4). -/

namespace Sys2Proof.Machine

/-- A whole element vector lies in memory (R34, R35). -/
abbrev State.VecInRange (s : State) (w : Width) (i : DReg) : Prop := s.InRange (s.base i) (s.len i) w.bs

/-- A result of `count` elements fits from the destination's `BASE` upward; its old `LEN` is no capacity (R20, R34). -/
abbrev State.DestInRange (s : State) (w : Width) (i : DReg) (count : Nat) : Prop :=
  s.InRange (s.base i) count w.bs

/-- Descriptor plus index: the address `D[a].BASE + idx·bs` of item `idx`, on unbounded integers; `none` where the index is not
below `LEN`, or else where the item runs past the end of memory (R88, R89). -/
def State.itemAddress (s : State) (w : Width) (a : DReg) (idx : Nat) : Option Nat :=
  if s.len a ≤ idx then none
  else if s.config.memBytes < s.base a + idx * w.bs + w.bs then none
  else some (s.base a + idx * w.bs)

end Sys2Proof.Machine
end

