-- ==== Sys2Proof/Machine/Accumulator.lean ====
section
/-! DEFINITION. Family 0x2_: the carry-less multiplier and the accumulator (spec/42_clmul_reduce.md section 5). All need a
configuration, also those that do no arithmetic (R64). -/

namespace Sys2Proof.Machine

/-- `ACLR` (R101). -/
def execAclr (s : State) : Host.Outcome State Fault Refusal :=
  .next (whenConfigured .aclr s fun _ => (s.setAcc 0).ok)

/-- `CLMUL Ea, Eb`: the unreduced product replaces `ACC` (R102). -/
def execClmul (a b : EReg) (s : State) : Host.Outcome State Fault Refusal :=
  .next (whenConfigured (.clmul a b) s fun _ => (s.setAcc (clmul (s.elem a) (s.elem b))).ok)

/-- `CLMAC Ea, Eb`: the unreduced product is added (XOR) to `ACC` (R103). -/
def execClmac (a b : EReg) (s : State) : Host.Outcome State Fault Refusal :=
  .next (whenConfigured (.clmac a b) s fun _ =>
    (s.setAcc (s.acc.toNat ^^^ clmul (s.elem a) (s.elem b))).ok)

/-- `ARED Ed`: `ACC` is kept (R104). -/
def execAred (d : EReg) (s : State) : Host.Outcome State Fault Refusal :=
  .next (whenConfigured (.ared d) s fun w => (s.setElem d (reduce w s.acc.toNat)).ok)

/-- `AGETL`: `ACC[63:0]` (R105). -/
def execAgetl (s : State) : Host.Outcome State Fault Refusal :=
  .next (whenConfigured .agetl s fun _ => s.respond 0 (s.acc.extractLsb' 0 64))

/-- `AGETH`: `ACC[95:64]`, zero-extended (R106). -/
def execAgeth (s : State) : Host.Outcome State Fault Refusal :=
  .next (whenConfigured .ageth s fun _ => s.respond 0 ((s.acc.extractLsb' 64 32).setWidth 64))

end Sys2Proof.Machine
end

