-- ==== Sys2Proof/Machine/Element.lean ====
section
/-! DEFINITION. Family 0x1_: element arithmetic (spec/41_element.md). All need a configuration. Sources are read from the state at
the start of the command (R47), so a destination may be a source. -/

namespace Sys2Proof.Machine

/-- `ELI Ed, imm16` (R80). -/
def execEli (d : EReg) (imm : Half) (s : State) : Host.Outcome State Fault Refusal :=
  .next (whenConfigured (.eli d imm) s fun _ => (s.setElem d imm.toNat).ok)

/-- `ELIS Ed, imm16`: shift 16 bits in, drop what passes bit n − 1 (R81). -/
def execElis (d : EReg) (imm : Half) (s : State) : Host.Outcome State Fault Refusal :=
  .next (whenConfigured (.elis d imm) s fun w =>
    (s.setElem d (((s.elem d <<< 16) ||| imm.toNat) &&& w.mask)).ok)

/-- `EGET Ed` (R82). -/
def execEget (d : EReg) (s : State) : Host.Outcome State Fault Refusal :=
  .next (whenConfigured (.eget d) s fun _ => s.okData (s.elem d))

/-- `EMOV Ed, Ea` (R83). -/
def execEmov (d a : EReg) (s : State) : Host.Outcome State Fault Refusal :=
  .next (whenConfigured (.emov d a) s fun _ => (s.setElem d (s.elem a)).ok)

/-- `EADD Ed, Ea, Eb` (R84). -/
def execEadd (d a b : EReg) (s : State) : Host.Outcome State Fault Refusal :=
  .next (whenConfigured (.eadd d a b) s fun _ => (s.setElem d (gfAdd (s.elem a) (s.elem b))).ok)

/-- `EMUL Ed, Ea, Eb`; `ACC` is not used (R85). -/
def execEmul (d a b : EReg) (s : State) : Host.Outcome State Fault Refusal :=
  .next (whenConfigured (.emul d a b) s fun w => (s.setElem d (gfMul w (s.elem a) (s.elem b))).ok)

/-- `EINV Ed, Ea`; zero raises `Singular` (R86). -/
def execEinv (d a : EReg) (s : State) : Host.Outcome State Fault Refusal :=
  .next (whenConfigured (.einv d a) s fun w =>
    if s.elem a = 0 then s.raiseBy (.einv d a) .singular
    else (s.setElem d (gfInv w (s.elem a))).ok)

/-- `ECMP Ea, Eb`: writes `EQ` and returns it (R87). -/
def execEcmp (a b : EReg) (s : State) : Host.Outcome State Fault Refusal :=
  .next (whenConfigured (.ecmp a b) s fun _ =>
    let eq := equalFlag s.e[a.val] s.e[b.val]
    { s with eq := eq }.okData (flagBit eq))

/-- `ELD Ed, Da, imm16` (R88). -/
def execEld (d : EReg) (a : DReg) (idx : Half) (s : State) : Host.Outcome State Fault Refusal :=
  .next (whenConfigured (.eld d a idx) s fun w =>
    match s.itemAddress w a idx.toNat with
    | none => s.raiseBy (.eld d a idx) .bounds
    | some addr => (s.setElem d (s.memRead addr w.bs)).ok)

/-- `EST Ed, Da, imm16`: `Ed` is the source; exactly `bs` bytes are stored and no descriptor changes (R89). -/
def execEst (d : EReg) (a : DReg) (idx : Half) (s : State) : Host.Outcome State Fault Refusal :=
  .next (whenConfigured (.est d a idx) s fun w =>
    match s.itemAddress w a idx.toNat with
    | none => s.raiseBy (.est d a idx) .bounds
    | some addr => (s.memWrite addr w.bs (s.elem d)).ok)

end Sys2Proof.Machine
end

