-- ==== Sys2Proof/Machine/Polynomial.lean ====
section
/-! DEFINITION. Polynomials and family 0x4_ (spec/44_polynomial.md). A polynomial is the list of its coefficients, that of degree i
at index i; it is not normalised, and the empty list is the zero polynomial (R125). -/

namespace Sys2Proof.Machine

/-- One round of R126: `p` times (X + r). Coefficient i of the result is `p[i−1] + p[i]·r`, an absent coefficient being 0. -/
def mulByRoot (w : Width) (p : List Nat) (r : Nat) : List Nat :=
  List.zipWith gfAdd (0 :: p) ((p ++ [0]).map fun c => gfMul w c r)

/-- `poly_from_roots` (R126). -/
def polyFromRoots (w : Width) (roots : List Nat) : List Nat := roots.foldl (mulByRoot w) [1]

/-- `horner`: from the highest coefficient down (R127). -/
def horner (w : Width) (c : List Nat) (x : Nat) : Nat := c.foldr (fun ci acc => gfAdd (gfMul w acc x) ci) 0

/-- The first `cnt` powers of the element 2, from 2^1 on (R128). -/
def fieldPoints (w : Width) (cnt : Nat) : List Nat := (List.range cnt).map fun i => gfPow w 2 (i + 1)

/-- `PGEN Dd, imm16` (R128). -/
def execPgen (d : DReg) (cnt : Half) (s : State) : Host.Outcome State Fault Refusal :=
  .next (whenConfigured (.pgen d cnt) s fun w =>
    if ¬ s.DestInRange w d cnt.toNat then s.raiseBy (.pgen d cnt) .bounds
    else (s.writeVec w d (fieldPoints w cnt.toNat)).ok)

/-- `PROOTS Dd, Da` (R129). -/
def execProots (d a : DReg) (s : State) : Host.Outcome State Fault Refusal :=
  .next (whenConfigured (.proots d a) s fun w =>
    if ¬ s.VecInRange w a then s.raiseBy (.proots d a) .bounds
    else if ¬ s.DestInRange w d (s.len a + 1) then s.raiseBy (.proots d a) .bounds
    else (s.writeVec w d (polyFromRoots w (s.readVec w a))).ok)

/-- `PEVAL Ed, Da, Eb` (R130). -/
def execPeval (d : EReg) (a : DReg) (b : EReg) (s : State) : Host.Outcome State Fault Refusal :=
  .next (whenConfigured (.peval d a b) s fun w =>
    if ¬ s.VecInRange w a then s.raiseBy (.peval d a b) .bounds
    else (s.setElem d (horner w (s.readVec w a) (s.elem b))).ok)

end Sys2Proof.Machine
end

