-- ==== Sys2Proof/Machine/Lagrange.lean ====
section
/-! DEFINITION. The Lagrange basis, interpolation and family 0x5_ (spec/45_lagrange.md). -/

namespace Sys2Proof.Machine

/-- `num_k`: the polynomial whose roots are all the points but point k (R135). -/
def basisNumerator (w : Width) (x : List Nat) (k : Nat) : List Nat := polyFromRoots w (x.eraseIdx k)

/-- `den_k`: the product over j ≠ k of x_k + x_j, 1 for a single point (R135). -/
def basisDenominator (w : Width) (x : List Nat) (k : Nat) : Nat :=
  gfProd w ((x.eraseIdx k).map fun xj => gfAdd (x.getD k 0) xj)

/-- `L_k`: the numerator scaled by the inverse of the denominator (R135). -/
def basisRow (w : Width) (x : List Nat) (k : Nat) : List Nat :=
  strict (gfInv w (basisDenominator w x k)) fun inv => (basisNumerator w x k).map fun c => gfMul w c inv

/-- Some denominator is 0, that is, two points coincide (R135, R137). -/
def singularPoints (w : Width) (x : List Nat) : Bool :=
  (List.range x.length).any fun k => basisDenominator w x k == 0

/-- The stored basis set: L_0 ++ L_1 ++ ... ++ L_{m−1} (R136). -/
def lagrangeBasis (w : Width) (x : List Nat) : List Nat := (List.range x.length).flatMap (basisRow w x)

/-- `interpolate(B, y)`: coefficient j is the sum over k of y_k · L_k[j], with L_k[j] = B[k·m + j] (R136, R138). -/
def interpolate (w : Width) (basis y : List Nat) : List Nat :=
  (List.range y.length).map fun j =>
    gfSum ((List.range y.length).map fun k => gfMul w (y.getD k 0) (basis.getD (k * y.length + j) 0))

/-- `LPRE Dd, Da`: all checks, that of every denominator among them, come before the first write (R137, R161). -/
def execLpre (d a : DReg) (s : State) : Host.Outcome State Fault Refusal :=
  .next (whenConfigured (.lpre d a) s fun w =>
    if ¬ s.VecInRange w a then s.raiseBy (.lpre d a) .bounds
    else if ¬ s.DestInRange w d (s.len a * s.len a) then s.raiseBy (.lpre d a) .bounds
    else if singularPoints w (s.readVec w a) then s.raiseBy (.lpre d a) .singular
    else (s.writeVec w d (lagrangeBasis w (s.readVec w a))).ok)

/-- `LINT Dd, Da, Db` (R139). -/
def execLint (d a b : DReg) (s : State) : Host.Outcome State Fault Refusal :=
  .next (whenConfigured (.lint d a b) s fun w =>
    if s.len b = 0 ∨ s.len a = 0 ∨ s.len a ≠ s.len b * s.len b then s.raiseBy (.lint d a b) .interpInput
    else if ¬ s.VecInRange w a then s.raiseBy (.lint d a b) .bounds
    else if ¬ s.VecInRange w b then s.raiseBy (.lint d a b) .bounds
    else if ¬ s.DestInRange w d (s.len b) then s.raiseBy (.lint d a b) .bounds
    else (s.writeVec w d (interpolate w (s.readVec w a) (s.readVec w b))).ok)

end Sys2Proof.Machine
end

