-- ==== Sys2Proof/Machine/Lifting.lean ====
section
/-! DEFINITION. The lifting table and family 0x3_ (spec/43_lifting.md). The table is no independent state: it is a function of the
active width and of the instance's generator, computed on demand (R23; log entry 4). -/

namespace Sys2Proof.Machine

/-- `LIFT_GEN_n` of an instance (R117). -/
def liftGen (c : Config) : Width → Nat
  | .w32 => c.liftGen32.toNat
  | .w40 => c.liftGen40.toNat
  | .w48 => c.liftGen48.toNat

/-- The constraint of R117 on one generator: it is a root in GF(2^n) of `AES_POLY`, x^8 + x^4 + x^3 + x + 1. -/
def isAesRoot (w : Width) (g : Nat) : Bool := (gfPow w g 8 ^^^ gfPow w g 4 ^^^ gfPow w g 3 ^^^ g ^^^ 1) == 0

/-- An instance's parameters are admissible (R3, R117). -/
def admissible (c : Config) : Bool :=
  isAesRoot .w32 (liftGen c .w32) && isAesRoot .w40 (liftGen c .w40) && isAesRoot .w48 (liftGen c .w48)

/-- The rounds of R116: each doubles the table with the running power of `g`, then multiplies the power by `g`. -/
def liftRounds (w : Width) (g : Nat) : Nat → List Nat → Nat → List Nat
  | 0, t, _ => t
  | k + 1, t, pow => strict pow fun p => liftRounds w g k (t ++ t.map fun x => gfAdd x p) (gfMul w p g)

/-- The table of R116 for the generator `g`: rounds k = 1 to 7 on [0, 1]. -/
def liftTableOf (w : Width) (g : Nat) : List Nat := liftRounds w g 7 [0, 1] g

/-- `LIFT` of an instance under width `w` (R115). -/
def liftTable (c : Config) (w : Width) : List Nat := liftTableOf w (liftGen c w)

/-- `LIFT[b]` (R115). -/
def lift (c : Config) (w : Width) (b : Nat) : Nat := (liftTable c w).getD b 0

/-- Multiplication in the byte field, modulo `AES_POLY` = 0x11B: what R118 (b) compares the lifting with. -/
def byteMul (a b : Nat) : Nat :=
  (List.range 7).foldl (fun r j => if r.testBit (14 - j) then r ^^^ (0x11B <<< (6 - j)) else r) (clmul a b)

/-- `LIFTI Ed, imm8` (R119). -/
def execLifti (d : EReg) (imm : Byte) (s : State) : Host.Outcome State Fault Refusal :=
  .next (whenConfigured (.lifti d imm) s fun w => (s.setElem d (lift s.config w imm.toNat)).ok)

/-- `VLIFT Dd, Da`: the source is a byte vector, the destination an element vector (R120). -/
def execVlift (d a : DReg) (s : State) : Host.Outcome State Fault Refusal :=
  .next (whenConfigured (.vlift d a) s fun w =>
    if ¬ s.InRange (s.base a) (s.len a) 1 then s.raiseBy (.vlift d a) .bounds
    else if ¬ s.DestInRange w d (s.len a) then s.raiseBy (.vlift d a) .bounds
    else (s.writeVec w d ((s.readBytes a).map (lift s.config w))).ok)

end Sys2Proof.Machine
end

