-- ==== Sys2Proof/Machine/System.lean ====
section
/-! DEFINITION. Family 0x0_: configuration, status, host memory and descriptor commands (spec/40_config_system.md). None needs a
configuration. `STAT`, `RDECMD` and `CLRERR` also execute in the faulted state (R162). -/

namespace Sys2Proof.Machine

/-- `NOP` (R60). -/
def execNop (s : State) : Host.Outcome State Fault Refusal := .next (whenRunning s s.ok)

/-- `CFG imm16` (R61). -/
def execCfg (lam : Half) (s : State) : Host.Outcome State Fault Refusal :=
  .next (whenRunning s (match widthOf lam.toNat with
    | none => s.raiseBy (.cfg lam) .unsupportedConfig
    | some w => (s.configure w).ok))

/-- `STAT` (R62). -/
def execStat (s : State) : Host.Outcome State Fault Refusal := .next (s.okData (statusWord s))

/-- `RDECMD` (R63). -/
def execRdecmd (s : State) : Host.Outcome State Fault Refusal := .next (s.okData s.ecmd.toNat)

/-- `CLRERR` (R65, R163). -/
def execClrerr (s : State) : Host.Outcome State Fault Refusal := .next s.clearError.ok

/-- `MWB addr16, imm8` (R66). -/
def execMwb (addr : Half) (imm : Byte) (s : State) : Host.Outcome State Fault Refusal :=
  .next (whenRunning s
    (if s.config.memBytes ≤ addr.toNat then s.raiseBy (.mwb addr imm) .bounds
    else (s.setByte addr.toNat imm).ok))

/-- `MRB addr16` (R67). -/
def execMrb (addr : Half) (s : State) : Host.Outcome State Fault Refusal :=
  .next (whenRunning s
    (if s.config.memBytes ≤ addr.toNat then s.raiseBy (.mrb addr) .bounds
    else s.okData (s.byte addr.toNat).toNat))

/-- `DBASE Dd, imm16` (R68). -/
def execDbase (d : DReg) (imm : Half) (s : State) : Host.Outcome State Fault Refusal :=
  .next (whenRunning s (s.setBase d imm).ok)

/-- `DLEN Dd, imm16` (R69). -/
def execDlen (d : DReg) (imm : Half) (s : State) : Host.Outcome State Fault Refusal :=
  .next (whenRunning s (s.setLen d imm).ok)

/-- `DGET Dd`: `(LEN << 16) | BASE` (R70). -/
def execDget (d : DReg) (s : State) : Host.Outcome State Fault Refusal :=
  .next (whenRunning s (s.okData ((s.len d <<< 16) ||| s.base d)))

end Sys2Proof.Machine
end

