-- ==== Sys2Proof/Machine/Vectors.lean ====
section
/-! DEFINITION. Family 0x6_: vector commands (spec/46_vector.md). Checks come in the order of R145: lengths, sources in operand
order, destination; every source is read before anything is written (R47). -/

namespace Sys2Proof.Machine

/-- The unreduced sum of the products of corresponding items (R148). -/
def lazyDot (x y : List Nat) : Nat := gfSum (List.zipWith clmul x y)

/-- The length of a convolution: La + Lb − 1, and 0 when an operand is empty (R149). -/
def convLength (la lb : Nat) : Nat := if la = 0 ∨ lb = 0 then 0 else la + lb - 1

/-- Coefficient k of a convolution: the sum over i + j = k of x_i · y_j, which the two loops of R149 gather in `out[k]`. -/
def convCoefficient (w : Width) (x y : List Nat) (k : Nat) : Nat :=
  gfSum ((List.range x.length).map fun i =>
    if i ≤ k ∧ k - i < y.length then gfMul w (x.getD i 0) (y.getD (k - i) 0) else 0)

/-- The schoolbook convolution (R149). -/
def convolve (w : Width) (x y : List Nat) : List Nat :=
  (List.range (convLength x.length y.length)).map (convCoefficient w x y)

/-- `VADD Dd, Da, Db` (R146). -/
def execVadd (d a b : DReg) (s : State) : Host.Outcome State Fault Refusal :=
  .next (whenConfigured (.vadd d a b) s fun w =>
    if s.len a ≠ s.len b then s.raiseBy (.vadd d a b) .sizeMismatch
    else if ¬ s.VecInRange w a then s.raiseBy (.vadd d a b) .bounds
    else if ¬ s.VecInRange w b then s.raiseBy (.vadd d a b) .bounds
    else if ¬ s.DestInRange w d (s.len a) then s.raiseBy (.vadd d a b) .bounds
    else (s.writeVec w d (List.zipWith gfAdd (s.readVec w a) (s.readVec w b))).ok)

/-- `VSCALE Dd, Da, Eb` (R147). -/
def execVscale (d a : DReg) (b : EReg) (s : State) : Host.Outcome State Fault Refusal :=
  .next (whenConfigured (.vscale d a b) s fun w =>
    if ¬ s.VecInRange w a then s.raiseBy (.vscale d a b) .bounds
    else if ¬ s.DestInRange w d (s.len a) then s.raiseBy (.vscale d a b) .bounds
    else (s.writeVec w d ((s.readVec w a).map fun x => gfMul w x (s.elem b))).ok)

/-- `VDOT Ed, Da, Db`: one reduction at the end, and the unreduced sum stays in `ACC` (R148). -/
def execVdot (d : EReg) (a b : DReg) (s : State) : Host.Outcome State Fault Refusal :=
  .next (whenConfigured (.vdot d a b) s fun w =>
    if s.len a ≠ s.len b then s.raiseBy (.vdot d a b) .sizeMismatch
    else if ¬ s.VecInRange w a then s.raiseBy (.vdot d a b) .bounds
    else if ¬ s.VecInRange w b then s.raiseBy (.vdot d a b) .bounds
    else
      let sum := lazyDot (s.readVec w a) (s.readVec w b)
      ((s.setAcc sum).setElem d (reduce w sum)).ok)

/-- `VCONV Dd, Da, Db`: the lengths need not agree (R149). -/
def execVconv (d a b : DReg) (s : State) : Host.Outcome State Fault Refusal :=
  .next (whenConfigured (.vconv d a b) s fun w =>
    if ¬ s.VecInRange w a then s.raiseBy (.vconv d a b) .bounds
    else if ¬ s.VecInRange w b then s.raiseBy (.vconv d a b) .bounds
    else if ¬ s.DestInRange w d (convLength (s.len a) (s.len b)) then s.raiseBy (.vconv d a b) .bounds
    else (s.writeVec w d (convolve w (s.readVec w a) (s.readVec w b))).ok)

end Sys2Proof.Machine
end

