-- ==== Sys2Proof/Machine/Dispatch.lean ====
section
/-! DEFINITION. One arm per command: the meaning of each, in the order of the opcode map (spec/30_encoding.md R50). -/

namespace Sys2Proof.Machine

-- The state `s` is the state when the command begins; the faulted and configuration checks of R52 are part of each meaning.
def exec (i : Instr) (s : State) : Host.Outcome State Fault Refusal :=
  match i with
  | .nop => Sys2Proof.Machine.execNop s
  | .cfg lam => Sys2Proof.Machine.execCfg lam s
  | .stat => Sys2Proof.Machine.execStat s
  | .rdecmd => Sys2Proof.Machine.execRdecmd s
  | .clrerr => Sys2Proof.Machine.execClrerr s
  | .mwb addr imm => Sys2Proof.Machine.execMwb addr imm s
  | .mrb addr => Sys2Proof.Machine.execMrb addr s
  | .dbase d imm => Sys2Proof.Machine.execDbase d imm s
  | .dlen d imm => Sys2Proof.Machine.execDlen d imm s
  | .dget d => Sys2Proof.Machine.execDget d s
  | .eli d imm => Sys2Proof.Machine.execEli d imm s
  | .elis d imm => Sys2Proof.Machine.execElis d imm s
  | .eget d => Sys2Proof.Machine.execEget d s
  | .emov d a => Sys2Proof.Machine.execEmov d a s
  | .eadd d a b => Sys2Proof.Machine.execEadd d a b s
  | .emul d a b => Sys2Proof.Machine.execEmul d a b s
  | .einv d a => Sys2Proof.Machine.execEinv d a s
  | .ecmp a b => Sys2Proof.Machine.execEcmp a b s
  | .eld d a idx => Sys2Proof.Machine.execEld d a idx s
  | .est d a idx => Sys2Proof.Machine.execEst d a idx s
  | .aclr => Sys2Proof.Machine.execAclr s
  | .clmul a b => Sys2Proof.Machine.execClmul a b s
  | .clmac a b => Sys2Proof.Machine.execClmac a b s
  | .ared d => Sys2Proof.Machine.execAred d s
  | .agetl => Sys2Proof.Machine.execAgetl s
  | .ageth => Sys2Proof.Machine.execAgeth s
  | .lifti d imm => Sys2Proof.Machine.execLifti d imm s
  | .vlift d a => Sys2Proof.Machine.execVlift d a s
  | .pgen d cnt => Sys2Proof.Machine.execPgen d cnt s
  | .proots d a => Sys2Proof.Machine.execProots d a s
  | .peval d a b => Sys2Proof.Machine.execPeval d a b s
  | .lpre d a => Sys2Proof.Machine.execLpre d a s
  | .lint d a b => Sys2Proof.Machine.execLint d a b s
  | .vadd d a b => Sys2Proof.Machine.execVadd d a b s
  | .vscale d a b => Sys2Proof.Machine.execVscale d a b s
  | .vdot d a b => Sys2Proof.Machine.execVdot d a b s
  | .vconv d a b => Sys2Proof.Machine.execVconv d a b s

end Sys2Proof.Machine
end

