-- ==== Sys2Proof/Machine/Port.lean ====
section
/-! DEFINITION. The command port and the reset input: what one event of the host does (spec/30_encoding.md R45, R46, R52). -/

namespace Sys2Proof.Machine

/-- A command word as the unit takes it from the command port (R52): a word that no row matches raises `IllegalCommand`, and a
legal one runs its command. The faulted check comes first in both (R52 step 1). -/
def execWord (w : Word) (s : State) : Host.Outcome State Fault Refusal :=
  match decode w with
  | .error _ => .next (illegalCommand w s)
  | .ok i => exec i s

/-- One event of the host: a command is executed to completion (R46); a reset resets the unit (R180). -/
def execEvent (ev : HostEvent) (s : State) : Host.Outcome State Fault Refusal :=
  match ev with
  | .command w => execWord w s
  | .reset => .next s.resetUnit

end Sys2Proof.Machine
end

