-- ==== Sys2Proof/Machine/Step.lean ====
section
/-! DEFINITION. One step of the machine: the host's next event (spec/30_encoding.md R46). -/

namespace Sys2Proof.Machine

/-- One step takes the host's next event and executes it; with no event the unit waits, unchanged ("nothing executes by
itself", R180; log entry 3). -/
def step (s : State) : Host.Outcome State Fault Refusal :=
  match s.pending with
  | [] => .next s
  | ev :: rest => execEvent ev { s with pending := rest }

/-- The host gives the command word that is the low `nbits` bits of `w`: it stands at the head of the command port, before
whatever else the host will do. -/
def State.withFetchWord (s : State) (nbits w : Nat) : State :=
  { s with pending := .command (BitVec.ofNat 32 (w % 2 ^ nbits)) :: s.pending }

end Sys2Proof.Machine
end

