-- ==== Sys2Proof/Machine/Assembler.lean ====
section
/-! DEFINITION. The assembler syntax and the pseudo-instructions of the command set (spec/30_encoding.md R54, R55). A line of text
gives a list of commands; what they do is `exec`'s. The machine itself sees command words only. -/

namespace Sys2Proof.Machine

/-- The commands a pseudo-instruction stands for (R55). The constants' 16-bit chunks go in from the highest down. -/
def Pseudo.expand : Pseudo → List Instr
  | .esub d a b => [.eadd d a b]
  | .esqr d a => [.emul d a a]
  | .ezero d => [.eli d 0]
  | .eone d => [.eli d 1]
  | .eli32 d v => [.eli d (BitVec.ofNat 16 (v >>> 16)), .elis d (BitVec.ofNat 16 v)]
  | .eli48 d v =>
    [.eli d (BitVec.ofNat 16 (v >>> 32)), .elis d (BitVec.ofNat 16 (v >>> 16)), .elis d (BitVec.ofNat 16 v)]
  | .dset d base len => [.dbase d base, .dlen d len]
  | .vsub d a b => [.vadd d a b]
  | .vacc d a => [.vadd d d a]
  | .pmul d a b => [.vconv d a b]

/-- An operand as written (R54). -/
inductive AsmOperand where
  | e (r : EReg)
  | d (r : DReg)
  | num (v : Nat)
deriving DecidableEq, Repr

/-- Why a line is no command. -/
inductive AsmError where
  /-- No command or pseudo-instruction has this mnemonic. -/
  | unknownMnemonic
  /-- An operand is neither a register nor a number. -/
  | badOperand
  /-- The mnemonic is known, and its operands are of another number or kind, or a number does not fit its field. -/
  | badOperands
deriving DecidableEq, Repr

/-- The value of a digit in a base. -/
def asmDigit (base : Nat) (c : Char) : Option Nat :=
  let v := if c.isDigit then c.toNat - '0'.toNat else if c.isLower then c.toNat - 'a'.toNat + 10 else base
  if v < base then some v else none

/-- The value of a non-empty string of digits. -/
def asmDigits (base : Nat) : List Char → Option Nat
  | [] => none
  | cs => cs.foldl (fun acc c => acc.bind fun n => (asmDigit base c).map fun v => n * base + v) (some 0)

/-- A register number 0 to 15, in decimal. -/
def asmRegister (cs : List Char) : Option (Fin 16) :=
  (asmDigits 10 cs).bind fun v => if h : v < 16 then some ⟨v, h⟩ else none

/-- One operand, in lower case: `E0` to `E15`, `D0` to `D15`, or an unsigned number, decimal or with prefix `0x` (R54). -/
def asmOperand : List Char → Option AsmOperand
  | 'e' :: cs => (asmRegister cs).map .e
  | 'd' :: cs => (asmRegister cs).map .d
  | '0' :: 'x' :: cs => (asmDigits 16 cs).map .num
  | cs => (asmDigits 10 cs).map .num

/-- A 16-bit immediate or address (R49). -/
def asmHalf (v : Nat) (k : Half → Option (List Instr)) : Option (List Instr) :=
  if v < 2 ^ 16 then k (BitVec.ofNat 16 v) else none

/-- An 8-bit immediate (R49). -/
def asmByte (v : Nat) (k : Byte → Option (List Instr)) : Option (List Instr) :=
  if v < 2 ^ 8 then k (BitVec.ofNat 8 v) else none

/-- A pseudo-instruction, if its constant is in range (R55). -/
def asmPseudo (p : Pseudo) : Option (List Instr) := if p.wellFormed then some (Pseudo.expand p) else none

/-- Family 0x0_ and the commands with an immediate (R50, R54). -/
def asmImmediate : String → List AsmOperand → Option (List Instr)
  | "nop", [] => some [.nop]
  | "cfg", [.num v] => asmHalf v fun x => some [.cfg x]
  | "stat", [] => some [.stat]
  | "rdecmd", [] => some [.rdecmd]
  | "clrerr", [] => some [.clrerr]
  | "mwb", [.num v, .num b] => asmHalf v fun x => asmByte b fun y => some [.mwb x y]
  | "mrb", [.num v] => asmHalf v fun x => some [.mrb x]
  | "dbase", [.d d, .num v] => asmHalf v fun x => some [.dbase d x]
  | "dlen", [.d d, .num v] => asmHalf v fun x => some [.dlen d x]
  | "dget", [.d d] => some [.dget d]
  | "eli", [.e d, .num v] => asmHalf v fun x => some [.eli d x]
  | "elis", [.e d, .num v] => asmHalf v fun x => some [.elis d x]
  | "eld", [.e d, .d a, .num v] => asmHalf v fun x => some [.eld d a x]
  | "est", [.e d, .d a, .num v] => asmHalf v fun x => some [.est d a x]
  | "lifti", [.e d, .num b] => asmByte b fun y => some [.lifti d y]
  | "pgen", [.d d, .num v] => asmHalf v fun x => some [.pgen d x]
  | _, _ => none

/-- The commands whose operands are all registers (R50, R54). -/
def asmRegisters : String → List AsmOperand → Option (List Instr)
  | "eget", [.e d] => some [.eget d]
  | "emov", [.e d, .e a] => some [.emov d a]
  | "eadd", [.e d, .e a, .e b] => some [.eadd d a b]
  | "emul", [.e d, .e a, .e b] => some [.emul d a b]
  | "einv", [.e d, .e a] => some [.einv d a]
  | "ecmp", [.e a, .e b] => some [.ecmp a b]
  | "aclr", [] => some [.aclr]
  | "clmul", [.e a, .e b] => some [.clmul a b]
  | "clmac", [.e a, .e b] => some [.clmac a b]
  | "ared", [.e d] => some [.ared d]
  | "agetl", [] => some [.agetl]
  | "ageth", [] => some [.ageth]
  | "vlift", [.d d, .d a] => some [.vlift d a]
  | "proots", [.d d, .d a] => some [.proots d a]
  | "peval", [.e d, .d a, .e b] => some [.peval d a b]
  | "lpre", [.d d, .d a] => some [.lpre d a]
  | "lint", [.d d, .d a, .d b] => some [.lint d a b]
  | "vadd", [.d d, .d a, .d b] => some [.vadd d a b]
  | "vscale", [.d d, .d a, .e b] => some [.vscale d a b]
  | "vdot", [.e d, .d a, .d b] => some [.vdot d a b]
  | "vconv", [.d d, .d a, .d b] => some [.vconv d a b]
  | _, _ => none

/-- The pseudo-instructions (R55). -/
def asmPseudos : String → List AsmOperand → Option (List Instr)
  | "esub", [.e d, .e a, .e b] => asmPseudo (.esub d a b)
  | "esqr", [.e d, .e a] => asmPseudo (.esqr d a)
  | "ezero", [.e d] => asmPseudo (.ezero d)
  | "eone", [.e d] => asmPseudo (.eone d)
  | "eli32", [.e d, .num v] => asmPseudo (.eli32 d v)
  | "eli48", [.e d, .num v] => asmPseudo (.eli48 d v)
  | "dset", [.d d, .num v, .num l] => asmHalf v fun x => asmHalf l fun y => asmPseudo (.dset d x y)
  | "vsub", [.d d, .d a, .d b] => asmPseudo (.vsub d a b)
  | "vacc", [.d d, .d a] => asmPseudo (.vacc d a)
  | "pmul", [.d d, .d a, .d b] => asmPseudo (.pmul d a b)
  | _, _ => none

/-- Every mnemonic of R50 and R55, in lower case. -/
def asmMnemonics : List String :=
  ["nop", "cfg", "stat", "rdecmd", "clrerr", "mwb", "mrb", "dbase", "dlen", "dget", "eli", "elis", "eget", "emov", "eadd",
   "emul", "einv", "ecmp", "eld", "est", "aclr", "clmul", "clmac", "ared", "agetl", "ageth", "lifti", "vlift", "pgen",
   "proots", "peval", "lpre", "lint", "vadd", "vscale", "vdot", "vconv", "esub", "esqr", "ezero", "eone", "eli32", "eli48",
   "dset", "vsub", "vacc", "pmul"]

/-- The commands of a mnemonic with its operands. -/
def asmCommand (name : String) (ops : List AsmOperand) : Except AsmError (List Instr) :=
  match (asmImmediate name ops).or ((asmRegisters name ops).or (asmPseudos name ops)) with
  | some is => .ok is
  | none => .error (if asmMnemonics.contains name then .badOperands else .unknownMnemonic)

/-- The pieces of a text between commas. -/
def asmSplit : List Char → List (List Char)
  | [] => [[]]
  | c :: cs =>
    if c = ',' then [] :: asmSplit cs
    else match asmSplit cs with
      | [] => [[c]]
      | piece :: more => (c :: piece) :: more

/-- A text without the blanks at its ends. -/
def asmTrim (cs : List Char) : List Char :=
  ((cs.dropWhile Char.isWhitespace).reverse.dropWhile Char.isWhitespace).reverse

/-- One line (R54): a mnemonic, then operands separated by commas, destination first; letters of either case; a `;` starts a
comment. A line without a command gives no commands. -/
def assemble (line : String) : Except AsmError (List Instr) :=
  let text := asmTrim ((line.toList.takeWhile fun c => c != ';').map Char.toLower)
  let name := text.takeWhile fun c => !c.isWhitespace
  let rest := asmTrim (text.dropWhile fun c => !c.isWhitespace)
  match name with
  | [] => .ok []
  | _ =>
    match (if rest = [] then [] else asmSplit rest).mapM (fun piece => asmOperand (asmTrim piece)) with
    | none => .error .badOperand
    | some ops => asmCommand (String.ofList name) ops

/-- The words of a line's commands. -/
def assembleWords (line : String) : Except AsmError (List Word) := (assemble line).map fun is => is.map encode

end Sys2Proof.Machine
end

