-- ==== Sys2Proof/Safety.lean ====
section
/-! DEFINITION. The terms in which claims about the unit are stated: the invariant of its states, what a command leaves alone, and
which registers a command names as its destination. -/

namespace Sys2Proof.Machine

/-! ## The invariant -/

/-- With a configuration every element register is below 2^n and `ACC` below 2^(2n−1); without one they are 0, and so is `EQ`
(R13, R17, R21). -/
def State.RegistersReduced (s : State) : Prop :=
  match s.lambda with
  | none => (∀ i : EReg, s.elem i = 0) ∧ s.acc = 0 ∧ s.eq = false
  | some w => (∀ i : EReg, s.elem i < 2 ^ w.n) ∧ s.acc.toNat < 2 ^ (2 * w.n - 1)

/-- `ERR` holds 0 or a code 1 to 7, and `ECMD` is 0 whenever `ERR` is (R15, R16). -/
def State.ErrorLatched (s : State) : Prop := s.err.toNat ≤ 7 ∧ (s.err = 0 → s.ecmd = 0)

/-- Memory has its canonical form and lists no address outside the scratchpad (R30). -/
def State.MemoryCanonical (s : State) : Prop := Memory.wf s.mem ∧ ∀ c ∈ s.mem, c.1 < s.config.memBytes

/-- The invariant of the unit's states. -/
def State.Inv (s : State) : Prop := s.RegistersReduced ∧ s.ErrorLatched ∧ s.MemoryCanonical

/-! ## Hypotheses -/

/-- The unit is not faulted and is configured for width `w`: a legal command executes its rule (R52). -/
def State.Ready (s : State) (w : Width) : Prop := s.err = 0 ∧ s.lambda = some w

/-! ## Frames: what `t` keeps of `s` -/

/-- Every byte of memory reads as before. -/
def SameBytes (s t : State) : Prop := ∀ a, t.byte a = s.byte a

/-- Every element register is as before. -/
def SameElems (s t : State) : Prop := ∀ i : EReg, t.elem i = s.elem i

/-- Every descriptor is as before. -/
def SameDescs (s t : State) : Prop := ∀ i : DReg, t.base i = s.base i ∧ t.len i = s.len i

/-- The control state that only configuration, errors and reset write is as before, and so are the instance's parameters and
what the host will do next. -/
def SameControl (s t : State) : Prop :=
  t.lambda = s.lambda ∧ t.err = s.err ∧ t.ecmd = s.ecmd ∧ t.config = s.config ∧ t.epoch = s.epoch ∧ t.pending = s.pending

/-- Everything but element register `d` and the response is as before. -/
def OnlyElem (d : EReg) (s t : State) : Prop :=
  SameControl s t ∧ t.eq = s.eq ∧ t.acc = s.acc ∧ (∀ i : EReg, i ≠ d → t.elem i = s.elem i) ∧ SameDescs s t ∧ SameBytes s t

/-- Everything but `ACC` and the response is as before. -/
def OnlyAcc (s t : State) : Prop :=
  SameControl s t ∧ t.eq = s.eq ∧ SameElems s t ∧ SameDescs s t ∧ SameBytes s t

/-- Everything but the `k` bytes from `addr` on and the response is as before. -/
def OnlyBytes (addr k : Nat) (s t : State) : Prop :=
  SameControl s t ∧ t.eq = s.eq ∧ t.acc = s.acc ∧ SameElems s t ∧ SameDescs s t ∧
    ∀ a, a < addr ∨ addr + k ≤ a → t.byte a = s.byte a

/-- Everything but the `L` elements from `D[d].BASE` upward, `D[d].LEN` and the response is as before (R20). -/
def OnlyVec (w : Width) (d : DReg) (L : Nat) (s t : State) : Prop :=
  SameControl s t ∧ t.eq = s.eq ∧ t.acc = s.acc ∧ SameElems s t ∧ (∀ i : DReg, t.base i = s.base i) ∧
    (∀ i : DReg, i ≠ d → t.len i = s.len i) ∧
    ∀ a, a < s.base d ∨ s.base d + L * w.bs ≤ a → t.byte a = s.byte a

/-- The command `i` raised `x`: the code is in `ERR` and in the response, the command word in `ECMD`, and nothing else
changed (R160, R161). -/
def Raises (i : Instr) (x : ErrorKind) (s : State) : Prop :=
  exec i s = .next { s with err := x.code, ecmd := encode i, response := some ⟨x.code, 0⟩ }

/-! ## What the words of the spec say of a command -/

/-- The element register a command names as its destination (R50, column "operands"; `EST` names a source there, R89). -/
def destElem : Instr → Option EReg
  | .eli d _ => some d
  | .elis d _ => some d
  | .emov d _ => some d
  | .eadd d _ _ => some d
  | .emul d _ _ => some d
  | .einv d _ => some d
  | .eld d _ _ => some d
  | .ared d => some d
  | .lifti d _ => some d
  | .peval d _ _ => some d
  | .vdot d _ _ => some d
  | _ => none

/-- The destination descriptor of a command that produces a vector (R20). -/
def destVec : Instr → Option DReg
  | .vlift d _ => some d
  | .pgen d _ => some d
  | .proots d _ => some d
  | .lpre d _ => some d
  | .lint d _ _ => some d
  | .vadd d _ _ => some d
  | .vscale d _ _ => some d
  | .vconv d _ _ => some d
  | _ => none

/-- The commands that return data (R45). -/
def returnsData : Instr → Bool
  | .stat => true
  | .rdecmd => true
  | .mrb _ => true
  | .dget _ => true
  | .eget _ => true
  | .ecmp _ _ => true
  | .agetl => true
  | .ageth => true
  | _ => false

/-- The operand-consistency check of a command (R145, R139): the lengths its descriptors must have. -/
def lengthsAgree (i : Instr) (s : State) : Prop :=
  match i with
  | .vadd _ a b => s.len a = s.len b
  | .vdot _ a b => s.len a = s.len b
  | .lint _ a b => s.len b ≠ 0 ∧ s.len a ≠ 0 ∧ s.len a = s.len b * s.len b
  | _ => True

/-- The memory ranges (base, count, stride) that a command's rule checks with `InRange`, in order; for `ELD` and `EST` the one
item, for `MWB` and `MRB` the one byte (R34). -/
def checkedRanges (w : Width) (i : Instr) (s : State) : List (Nat × Nat × Nat) :=
  match i with
  | .mwb addr _ => [(addr.toNat, 1, 1)]
  | .mrb addr => [(addr.toNat, 1, 1)]
  | .eld _ a idx => [(s.base a + idx.toNat * w.bs, 1, w.bs)]
  | .est _ a idx => [(s.base a + idx.toNat * w.bs, 1, w.bs)]
  | .vlift d a => [(s.base a, s.len a, 1), (s.base d, s.len a, w.bs)]
  | .pgen d cnt => [(s.base d, cnt.toNat, w.bs)]
  | .proots d a => [(s.base a, s.len a, w.bs), (s.base d, s.len a + 1, w.bs)]
  | .peval _ a _ => [(s.base a, s.len a, w.bs)]
  | .lpre d a => [(s.base a, s.len a, w.bs), (s.base d, s.len a * s.len a, w.bs)]
  | .lint d a b => [(s.base a, s.len a, w.bs), (s.base b, s.len b, w.bs), (s.base d, s.len b, w.bs)]
  | .vadd d a b => [(s.base a, s.len a, w.bs), (s.base b, s.len b, w.bs), (s.base d, s.len a, w.bs)]
  | .vscale d a _ => [(s.base a, s.len a, w.bs), (s.base d, s.len a, w.bs)]
  | .vdot _ a b => [(s.base a, s.len a, w.bs), (s.base b, s.len b, w.bs)]
  | .vconv d a b => [(s.base a, s.len a, w.bs), (s.base b, s.len b, w.bs), (s.base d, convLength (s.len a) (s.len b), w.bs)]
  | _ => []

/-- The index check of `ELD` and `EST` (R88, R89). -/
def indexBelowLen (i : Instr) (s : State) : Prop :=
  match i with
  | .eld _ a idx => idx.toNat < s.len a
  | .est _ a idx => idx.toNat < s.len a
  | _ => True

/-- The element with the bits of byte `b` as coefficients of powers of `g` (R116, closed form). -/
def liftClosed (w : Width) (g b : Nat) : Nat :=
  gfSum ((List.range 8).map fun j => if b.testBit j then gfPow w g j else 0)

/-- `r` is the remainder of `R` modulo `P_n` over GF(2): below 2^n, and `R ^ r` a multiple of `P_n` (R99). -/
def IsRemainder (w : Width) (R r : Nat) : Prop := r < 2 ^ w.n ∧ ∃ t, R ^^^ r = clmul t w.poly

/-- The state after a list of commands, each accepted only after the one before has been answered (R46). -/
def execAll : List Instr → State → Option State
  | [], s => some s
  | i :: is, s =>
    match exec i s with
    | .next t => execAll is t
    | .fault _ => none
    | .refused _ => none

end Sys2Proof.Machine
end

