-- ==== Sys2Proof/Certificates/Slice0/Obligations.lean ====
section
/-! DEFINITION. The statements for the provers. Each formalises rules of spec/; OBLIGATIONS.json names them. That the command
port and the reset input are the list `pending` is the model's choice (log entry 3): where a statement says
`s.pending = .command w :: rest` it means that `w` is the word the host gives next, as in R45. -/

open Sys2Proof Sys2Proof.Machine

/-! ## Encoding (30_encoding.md) -/

/-- Decoding the word of a command gives the command back, with every operand at every value (R48, R54). -/
def Obligations.DecodeOfEncode : Prop := ∀ i : Instr, decode (encode i) = .ok i

/-- A word that decodes is the word of the command it decodes to: no bit of it is ignored (R48). -/
def Obligations.EncodeOfDecode : Prop := ∀ (w : Word) (i : Instr), decode w = .ok i → encode i = w

/-- The decoder, written from the formats of R48, accepts exactly the words that a row of R50 selects by match and mask. -/
def Obligations.DecodeAcceptsExactlyTheLegalWords : Prop :=
  ∀ w : Word, (∃ i, decode w = .ok i) ↔ legalWord w = true

/-- At most one row of the opcode map selects any word (R52). -/
def Obligations.AtMostOneRowSelectsAWord : Prop :=
  ∀ (w : Word) (r r' : OpcodeRow), r ∈ opcodeRows → r' ∈ opcodeRows → r.selects w = true → r'.selects w = true → r = r'

/-- The three words that R54 encodes by hand, and one of each further family from 95_test_vectors.md section 2. -/
def Obligations.WordsOfTheSpecDecode : Prop :=
  decode 0x15201000 = .ok (.emul 2 0 1) ∧ decode 0x18310002 = .ok (.eld 3 1 2) ∧
  decode 0x0801008D = .ok (.mwb 0x0100 0x8D) ∧ decode 0x21089000 = .ok (.clmul 8 9) ∧
  decode 0x30200053 = .ok (.lifti 2 0x53) ∧ decode 0x4040012C = .ok (.pgen 4 300) ∧
  decode 0x51768000 = .ok (.lint 7 6 8) ∧ decode 0x6120B000 = .ok (.vscale 2 0 11)

/-! ## Steps, errors, reset (30_encoding.md R45 to R52, 60_exceptions.md, 70_reset_and_hazards.md) -/

/-- When the host's next event is a command word that decodes to `i`, the step is `exec i` on the state with that event taken (R46,
R52; the list of events is the model's choice, log entry 3). -/
def Obligations.StepRunsTheDecodedCommand : Prop :=
  ∀ (s : State) (w : Word) (rest : List HostEvent) (i : Instr),
    s.pending = .command w :: rest → decode w = .ok i → step s = exec i { s with pending := rest }

/-- Executing an illegal word raises `IllegalCommand`, code 6, and has no other effect (R51; the
word is the next event, log entry 3). -/
def Obligations.IllegalWordRaisesIllegalCommand : Prop :=
  ∀ (s : State) (w : Word) (rest : List HostEvent),
    s.pending = .command w :: rest → s.err = 0 → legalWord w = false →
      step s = .next { s with pending := rest, err := 6, ecmd := w, response := some ⟨6, 0⟩ }

/-- While `ERR ≠ 0`, every word but the legal encodings of `STAT`, `RDECMD` and `CLRERR` is answered (8, 0) and has no effect,
illegal words included (R162; the word is the next event, log entry 3). -/
def Obligations.FaultedUnitAnswersFaulted : Prop :=
  ∀ (s : State) (w : Word) (rest : List HostEvent),
    s.pending = .command w :: rest → s.err ≠ 0 → w ≠ 0x02000000 → w ≠ 0x03000000 → w ≠ 0x04000000 →
      step s = .next { s with pending := rest, response := some ⟨8, 0⟩ }

/-- Every state has a successor: no step faults and none is refused (93_implementation_defined.md U8). With no event to come the
successor is the state itself, which is the model's choice (log entry 3). -/
def Obligations.EveryStepAnswersANextState : Prop := ∀ s : State, ∃ t, step s = .next t

/-- A step that enters the faulted state executed a command word and raised an error by it: the code 1 to 7 is in `ERR` and in
the response, the whole word in `ECMD`, and nothing else changed (R159, R160, R161). -/
def Obligations.EnteringTheFaultedStateWritesOnlyErrAndEcmd : Prop :=
  ∀ s t : State, step s = .next t → s.err = 0 → t.err ≠ 0 →
    ∃ (w : Word) (rest : List HostEvent) (x : ErrorKind), s.pending = .command w :: rest ∧
      1 ≤ x.code.toNat ∧ x.code.toNat ≤ 7 ∧
      t = { s with pending := rest, err := x.code, ecmd := w, response := some ⟨x.code, 0⟩ }

/-- Only `CLRERR` and reset leave the faulted state, and both do; `CLRERR` clears `ERR` and `ECMD` and changes nothing else
(R163). -/
def Obligations.OnlyClrerrAndResetLeaveTheFaultedState : Prop :=
  ∀ s : State,
    (∀ t, step s = .next t → s.err ≠ 0 → t.err = 0 →
      ∃ rest, s.pending = .command 0x04000000 :: rest ∨ s.pending = .reset :: rest) ∧
    (∀ rest, s.pending = .command 0x04000000 :: rest →
      step s = .next { s with pending := rest, err := 0, ecmd := 0, response := some ⟨0, 0⟩ }) ∧
    (∀ rest, s.pending = .reset :: rest → ∃ t, step s = .next t ∧ t.err = 0 ∧ t.ecmd = 0)

/-- Every command is answered; a response whose code is not 0 carries the data 0, and so does every response of a command that
returns no data; codes 9 to 15 are never produced (R45, R156). -/
def Obligations.ResponsesCarryDataOnlyWhereStated : Prop :=
  ∀ (i : Instr) (s t : State), exec i s = .next t →
    ∃ r, t.response = some r ∧ r.code.toNat ≤ 8 ∧ (r.code ≠ 0 → r.rdata = 0) ∧ (returnsData i = false → r.rdata = 0)

/-- Every command whose row is marked cfg raises `Unconfigured` while `LAMBDA = 0`, and no other command does (R64). -/
def Obligations.UnconfiguredRaisedExactlyByTheMarkedRows : Prop :=
  ∀ (i : Instr) (r : OpcodeRow) (s : State), r ∈ opcodeRows → r.selects (encode i) = true → s.err = 0 → s.lambda = none →
    (r.needsCfg = true → Raises i .unconfigured s) ∧
    (r.needsCfg = false → ∃ t, exec i s = .next t ∧ t.err ≠ ErrorKind.unconfigured.code)

/-- Codes 1, 2 and 3 are raised exactly when R157 says: `CFG` with λ outside 4, 5, 6; `VADD` or `VDOT` on unequal lengths; `LINT` on
an empty operand or on a basis count that is not the square of the value count. -/
def Obligations.LengthAndConfigurationErrorsExactlyWhen : Prop :=
  ∀ (i : Instr) (s t : State), s.err = 0 → exec i s = .next t →
    (t.err = 1 ↔ ∃ lam, i = .cfg lam ∧ lam ≠ 4 ∧ lam ≠ 5 ∧ lam ≠ 6) ∧
    (t.err = 2 ↔ s.lambda ≠ none ∧ ∃ d a b, (i = .vadd d a b ∨ i = .vdot d a b) ∧ s.len a ≠ s.len b) ∧
    (t.err = 3 ↔ s.lambda ≠ none ∧ ∃ d a b, i = .lint d a b ∧
      (s.len b = 0 ∨ s.len a = 0 ∨ s.len a ≠ s.len b * s.len b))

/-- `Bounds` is raised exactly when the lengths agree and a checked range leaves memory, or an index is not below `LEN` (R34, R158,
R164). -/
def Obligations.BoundsRaisedExactlyWhen : Prop :=
  ∀ (i : Instr) (w : Width) (s t : State), s.Ready w → exec i s = .next t →
    (t.err = 7 ↔ lengthsAgree i s ∧
      (¬ indexBelowLen i s ∨ ∃ r ∈ checkedRanges w i s, r.2.1 ≠ 0 ∧ s.config.memBytes < r.1 + r.2.1 * r.2.2))

/-- `Singular` is raised exactly by `EINV` of zero and by `LPRE`, its ranges in memory, on points of which two are equal (R157,
R86, R137). -/
def Obligations.SingularRaisedExactlyWhen : Prop :=
  ∀ (i : Instr) (w : Width) (s t : State), s.Ready w → exec i s = .next t →
    (t.err = 4 ↔ (∃ d a, i = .einv d a ∧ s.elem a = 0) ∨
      ∃ d a, i = .lpre d a ∧ (∀ r ∈ checkedRanges w i s, s.InRange r.1 r.2.1 r.2.2) ∧ ¬ (s.readVec w a).Nodup)

/-- The state after reset has the values of R181, for every instance, and the first responses to `STAT`, `RDECMD`, `DGET` and the
commands of families 0x1_ to 0x6_ are those R181 names. What memory holds is left free. -/
def Obligations.ResetLeavesTheStatedValues : Prop :=
  ∀ (s : State) (rest : List HostEvent), s.pending = .reset :: rest →
    ∃ t, step s = .next t ∧ t.lambda = none ∧ t.eq = false ∧ t.err = 0 ∧ t.ecmd = 0 ∧ (∀ i : EReg, t.elem i = 0) ∧
      (∀ i : DReg, t.base i = 0 ∧ t.len i = 0) ∧ t.acc = 0 ∧ t.response = none ∧
      exec .stat t = .next { t with response := some ⟨0, 0⟩ } ∧ exec .rdecmd t = .next { t with response := some ⟨0, 0⟩ } ∧
      (∀ d, exec (.dget d) t = .next { t with response := some ⟨0, 0⟩ }) ∧
      ∀ r ∈ opcodeRows, r.needsCfg = true → ∀ i : Instr, r.selects (encode i) = true → Raises i .unconfigured t

/-! ## Who writes what (10_state.md) -/

/-- `LAMBDA` is written only by `CFG`, `EQ` only by `ECMP` and `CFG`, `ACC` only by `ACLR`, `CLMUL`, `CLMAC`, `VDOT` and `CFG`; the
instance's parameters by no command (R10, R13, R21, R3). -/
def Obligations.ControlStateWrittenOnlyByItsCommands : Prop :=
  ∀ (i : Instr) (s t : State), exec i s = .next t →
    (t.lambda ≠ s.lambda → ∃ lam, i = .cfg lam) ∧
    (t.eq ≠ s.eq → (∃ a b, i = .ecmp a b) ∨ ∃ lam, i = .cfg lam) ∧
    (t.acc ≠ s.acc → i = .aclr ∨ (∃ a b, i = .clmul a b) ∨ (∃ a b, i = .clmac a b) ∨ (∃ d a b, i = .vdot d a b) ∨
      ∃ lam, i = .cfg lam) ∧
    t.config = s.config

/-- An element register is written only by a command that names it as its destination, and by `CFG` (R18). -/
def Obligations.ElementRegistersWrittenOnlyWhereNamed : Prop :=
  ∀ (i : Instr) (s t : State) (j : EReg), exec i s = .next t → t.elem j ≠ s.elem j → destElem i = some j ∨ ∃ lam, i = .cfg lam

/-- `BASE` is written only by `DBASE`, `LEN` only by `DLEN` and by a command that produces a vector there; memory only by `MWB`, `EST`
and the commands that produce a vector (R19, R20, 10_state.md section 1). -/
def Obligations.DescriptorsAndMemoryWrittenOnlyByTheirCommands : Prop :=
  ∀ (i : Instr) (s t : State), exec i s = .next t →
    (∀ j : DReg, t.base j ≠ s.base j → ∃ v, i = .dbase j v) ∧
    (∀ j : DReg, t.len j ≠ s.len j → (∃ v, i = .dlen j v) ∨ destVec i = some j) ∧
    ((∃ a, t.byte a ≠ s.byte a) → (∃ x v, i = .mwb x v) ∨ (∃ d a x, i = .est d a x) ∨ destVec i ≠ none)

/-! ## The invariant -/

/-- The invariant holds right after reset, whatever the instance's parameters (R181). -/
def Obligations.InvariantHoldsAfterReset : Prop :=
  State.reset.Inv ∧ ∀ (c : Config) (k : Nat) (p : List HostEvent), (State.afterReset c k p).Inv

/-- Every step keeps the invariant: registers hold reduced elements, `ACC` stays below 2^(2n−1), `ERR` holds a code 0 to 7 and
`ECMD` is 0 with it, memory keeps its canonical form inside the scratchpad (R15, R16, R17, R21, R30). -/
def Obligations.EveryStepKeepsTheInvariant : Prop := ∀ s t : State, s.Inv → step s = .next t → t.Inv

/-! ## Family 0x0_ (40_config_system.md) -/

/-- `NOP` changes nothing; `RDECMD` returns `ECMD` and `CLRERR` clears `ERR` and `ECMD`, in the faulted state too (R60, R63, R65). -/
def Obligations.NopRdecmdClrerrComplete : Prop :=
  ∀ s : State,
    (s.err = 0 → exec .nop s = .next { s with response := some ⟨0, 0⟩ }) ∧
    exec .rdecmd s = .next { s with response := some ⟨0, s.ecmd.setWidth 64⟩ } ∧
    exec .clrerr s = .next { s with err := 0, ecmd := 0, response := some ⟨0, 0⟩ }

/-- `CFG λ` for λ = 4, 5, 6 sets `LAMBDA` and clears every element register, `ACC` and `EQ`; descriptors, memory, `ERR` and `ECMD`
stay (R61). Any other λ raises `UnsupportedConfig`. -/
def Obligations.CfgSelectsTheFieldAndClears : Prop :=
  ∀ (lam : Half) (s : State), s.err = 0 →
    (∀ w : Width, lam.toNat = w.bs → ∃ t, exec (.cfg lam) s = .next t ∧ t.response = some ⟨0, 0⟩ ∧ t.lambda = some w ∧
      (∀ i : EReg, t.elem i = 0) ∧ t.acc = 0 ∧ t.eq = false ∧ SameDescs s t ∧ SameBytes s t ∧ t.err = s.err ∧
      t.ecmd = s.ecmd ∧ t.config = s.config ∧ t.pending = s.pending) ∧
    (lam ≠ 4 → lam ≠ 5 → lam ≠ 6 → Raises (.cfg lam) .unsupportedConfig s)

/-- `STAT` returns the status word: `LAMBDA` in bits 2:0, `EQ` in bit 3, `ERR` in bits 7:4, zero above; in every state, and it
changes nothing (R14, R62). -/
def Obligations.StatReturnsTheStatusWord : Prop :=
  ∀ s : State, ∃ r : BitVec 64, exec .stat s = .next { s with response := some ⟨0, r⟩ } ∧
    (r.extractLsb' 0 3).toNat = (match s.lambda with
      | none => 0
      | some w => w.bs) ∧
    r.getLsbD 3 = s.eq ∧ r.extractLsb' 4 4 = s.err ∧ r.extractLsb' 8 56 = 0

/-- `MWB` writes one byte and `MRB` returns one, at every address inside the scratchpad; at any other both raise `Bounds` (R66,
R67). -/
def Obligations.HostByteAccessesComplete : Prop :=
  ∀ (addr : Half) (b : Byte) (s : State), s.err = 0 →
    (addr.toNat < s.config.memBytes →
      (∃ t, exec (.mwb addr b) s = .next t ∧ t.response = some ⟨0, 0⟩ ∧ t.byte addr.toNat = b ∧
        OnlyBytes addr.toNat 1 s t) ∧
      exec (.mrb addr) s = .next { s with response := some ⟨0, (s.byte addr.toNat).setWidth 64⟩ }) ∧
    (s.config.memBytes ≤ addr.toNat → Raises (.mwb addr b) .bounds s ∧ Raises (.mrb addr) .bounds s)

/-- `DBASE` and `DLEN` write one field of one descriptor, with any value, and keep everything else (R68, R69). -/
def Obligations.DbaseAndDlenWriteOneField : Prop :=
  ∀ (d : DReg) (v : Half) (s : State), s.err = 0 →
    (∃ t, exec (.dbase d v) s = .next t ∧ t.response = some ⟨0, 0⟩ ∧ t.base d = v.toNat ∧
      (∀ i : DReg, i ≠ d → t.base i = s.base i) ∧ (∀ i : DReg, t.len i = s.len i) ∧ SameControl s t ∧ t.eq = s.eq ∧
      t.acc = s.acc ∧ SameElems s t ∧ SameBytes s t) ∧
    (∃ t, exec (.dlen d v) s = .next t ∧ t.response = some ⟨0, 0⟩ ∧ t.len d = v.toNat ∧
      (∀ i : DReg, i ≠ d → t.len i = s.len i) ∧ (∀ i : DReg, t.base i = s.base i) ∧ SameControl s t ∧ t.eq = s.eq ∧
      t.acc = s.acc ∧ SameElems s t ∧ SameBytes s t)

/-- `DGET` returns `LEN` in bits 31:16 and `BASE` in bits 15:0, zero above, and changes nothing (R70). -/
def Obligations.DgetReturnsLenAndBase : Prop :=
  ∀ (d : DReg) (s : State), s.err = 0 → ∃ r : BitVec 64, exec (.dget d) s = .next { s with response := some ⟨0, r⟩ } ∧
    r.toNat = s.len d * 2 ^ 16 + s.base d

/-! ## Family 0x1_ (41_element.md) -/

/-- `ELI` loads the immediate; `ELIS` shifts it in from the right and drops what passes bit n − 1 (R80, R81). -/
def Obligations.EliAndElisBuildAnElement : Prop :=
  ∀ (d : EReg) (v : Half) (w : Width) (s : State), s.Ready w →
    (∃ t, exec (.eli d v) s = .next t ∧ t.response = some ⟨0, 0⟩ ∧ t.elem d = v.toNat ∧ OnlyElem d s t) ∧
    (∃ t, exec (.elis d v) s = .next t ∧ t.response = some ⟨0, 0⟩ ∧
      t.elem d = (s.elem d * 2 ^ 16 + v.toNat) % 2 ^ w.n ∧ OnlyElem d s t)

/-- The commands that `ELI32` and `ELI48` stand for load their constant, cut to the low n bits; nothing but the register changes
(R55, R80, R81). -/
def Obligations.WideConstantsLoadTheValue : Prop :=
  ∀ (d : EReg) (v : Nat) (w : Width) (s : State), s.Ready w →
    (v < 2 ^ 32 → ∃ t, execAll (Pseudo.expand (.eli32 d v)) s = some t ∧ t.response = some ⟨0, 0⟩ ∧ t.elem d = v ∧
      OnlyElem d s t) ∧
    (v < 2 ^ 48 → ∃ t, execAll (Pseudo.expand (.eli48 d v)) s = some t ∧ t.response = some ⟨0, 0⟩ ∧
      t.elem d = v % 2 ^ w.n ∧ OnlyElem d s t)

/-- `EGET` returns the register, zero-extended, and changes nothing (R82). -/
def Obligations.EgetReturnsTheElement : Prop :=
  ∀ (d : EReg) (w : Width) (s : State), s.Ready w →
    ∃ r : BitVec 64, exec (.eget d) s = .next { s with response := some ⟨0, r⟩ } ∧ r.toNat = s.elem d

/-- `EMOV` copies and `EADD` adds by XOR; the destination may be a source (R83, R84). -/
def Obligations.EmovCopiesAndEaddXors : Prop :=
  ∀ (d a b : EReg) (w : Width) (s : State), s.Ready w →
    (∃ t, exec (.emov d a) s = .next t ∧ t.response = some ⟨0, 0⟩ ∧ t.elem d = s.elem a ∧ OnlyElem d s t) ∧
    (∃ t, exec (.eadd d a b) s = .next t ∧ t.response = some ⟨0, 0⟩ ∧ t.elem d = s.elem a ^^^ s.elem b ∧ OnlyElem d s t)

/-- `EMUL` leaves in `E[d]` the remainder of the carry-less product modulo `P_n`; `ACC` is unchanged (R77, R85, R99). -/
def Obligations.EmulLeavesTheProductModuloTheModulus : Prop :=
  ∀ (d a b : EReg) (w : Width) (s : State), s.Ready w → s.elem a < 2 ^ w.n → s.elem b < 2 ^ w.n →
    ∃ t, exec (.emul d a b) s = .next t ∧ t.response = some ⟨0, 0⟩ ∧
      IsRemainder w (clmul (s.elem a) (s.elem b)) (t.elem d) ∧ OnlyElem d s t

/-- `EINV` of a non-zero element leaves its true inverse: the product with the operand is 1. `EINV` of zero raises `Singular`
(R78, R86). -/
def Obligations.EinvLeavesTheTrueInverse : Prop :=
  ∀ (d a : EReg) (w : Width) (s : State), s.Ready w → s.elem a < 2 ^ w.n →
    (s.elem a ≠ 0 → ∃ t, exec (.einv d a) s = .next t ∧ t.response = some ⟨0, 0⟩ ∧ t.elem d < 2 ^ w.n ∧
      gfMul w (s.elem a) (t.elem d) = 1 ∧ OnlyElem d s t) ∧
    (s.elem a = 0 → Raises (.einv d a) .singular s)

/-- `ECMP` writes the equality of the two registers to `EQ` and returns it; nothing else changes (R13, R87). -/
def Obligations.EcmpWritesAndReturnsEquality : Prop :=
  ∀ (a b : EReg) (w : Width) (s : State), s.Ready w →
    (s.elem a = s.elem b → exec (.ecmp a b) s = .next { s with eq := true, response := some ⟨0, 1⟩ }) ∧
    (s.elem a ≠ s.elem b → exec (.ecmp a b) s = .next { s with eq := false, response := some ⟨0, 0⟩ })

/-- `ELD` loads item `idx` of the vector, byte j of the element from byte j of the item; it raises `Bounds` on an index that is
not below `LEN` and on an item that runs past the end of memory (R31, R88). -/
def Obligations.EldLoadsLittleEndian : Prop :=
  ∀ (d : EReg) (a : DReg) (idx : Half) (w : Width) (s : State), s.Ready w →
    (idx.toNat < s.len a → s.base a + idx.toNat * w.bs + w.bs ≤ s.config.memBytes →
      ∃ t, exec (.eld d a idx) s = .next t ∧ t.response = some ⟨0, 0⟩ ∧ t.elem d < 2 ^ w.n ∧
        (∀ j < w.bs, t.elem d / 256 ^ j % 256 = (s.byte (s.base a + idx.toNat * w.bs + j)).toNat) ∧ OnlyElem d s t) ∧
    (s.len a ≤ idx.toNat ∨ s.config.memBytes < s.base a + idx.toNat * w.bs + w.bs → Raises (.eld d a idx) .bounds s)

/-- `EST` stores exactly `bs` bytes at the item's address, byte j of the element at byte j of the item, and changes nothing else, no
descriptor among it; it raises `Bounds` as `ELD` does (R32, R89). -/
def Obligations.EstStoresExactlyTheItem : Prop :=
  ∀ (d : EReg) (a : DReg) (idx : Half) (w : Width) (s : State), s.Ready w →
    (∀ addr, s.itemAddress w a idx.toNat = some addr →
      addr = s.base a + idx.toNat * w.bs ∧
      ∃ t, exec (.est d a idx) s = .next t ∧ t.response = some ⟨0, 0⟩ ∧
        (∀ j < w.bs, (t.byte (addr + j)).toNat = s.elem d / 256 ^ j % 256) ∧ OnlyBytes addr w.bs s t) ∧
    (s.itemAddress w a idx.toNat = none ↔
      s.len a ≤ idx.toNat ∨ s.config.memBytes < s.base a + idx.toNat * w.bs + w.bs) ∧
    (s.itemAddress w a idx.toNat = none → Raises (.est d a idx) .bounds s)

/-- `EST Ex, Da, i` and then `ELD Ey, Da, i` gives `E[y] = E[x]`, and the `EST` changes exactly the item's `bs` bytes (R91). -/
def Obligations.StoreThenLoadGivesTheElementBack : Prop :=
  ∀ (x y : EReg) (a : DReg) (idx : Half) (w : Width) (s : State), s.Ready w → s.elem x < 2 ^ w.n →
    idx.toNat < s.len a → s.base a + idx.toNat * w.bs + w.bs ≤ s.config.memBytes →
      ∃ t u, exec (.est x a idx) s = .next t ∧ exec (.eld y a idx) t = .next u ∧ u.elem y = s.elem x ∧
        OnlyBytes (s.base a + idx.toNat * w.bs) w.bs s t

/-! ## Family 0x2_ (42_clmul_reduce.md) -/

/-- `ACLR` clears `ACC`, `CLMUL` puts the unreduced product there, `CLMAC` adds it by XOR; nothing else changes (R101, R102, R103). -/
def Obligations.AccumulatorCommandsWriteOnlyAcc : Prop :=
  ∀ (a b : EReg) (w : Width) (s : State), s.Ready w →
    (∃ t, exec .aclr s = .next t ∧ t.response = some ⟨0, 0⟩ ∧ t.acc = 0 ∧ OnlyAcc s t) ∧
    (∃ t, exec (.clmul a b) s = .next t ∧ t.response = some ⟨0, 0⟩ ∧ t.acc.toNat = clmul (s.elem a) (s.elem b) ∧
      OnlyAcc s t) ∧
    (∃ t, exec (.clmac a b) s = .next t ∧ t.response = some ⟨0, 0⟩ ∧
      t.acc.toNat = s.acc.toNat ^^^ clmul (s.elem a) (s.elem b) ∧ OnlyAcc s t)

/-- `ARED` leaves in `E[d]` the remainder of `ACC` modulo `P_n` and keeps `ACC` (R99, R104). -/
def Obligations.AredReducesTheAccumulator : Prop :=
  ∀ (d : EReg) (w : Width) (s : State), s.Ready w → s.acc.toNat < 2 ^ (2 * w.n) →
    ∃ t, exec (.ared d) s = .next t ∧ t.response = some ⟨0, 0⟩ ∧ IsRemainder w s.acc.toNat (t.elem d) ∧ OnlyElem d s t

/-- `AGETL` and `AGETH` return the low 64 and the high 32 bits of `ACC` and change nothing (R105, R106). -/
def Obligations.AgetlAndAgethReturnTheAccumulator : Prop :=
  ∀ (w : Width) (s : State), s.Ready w → ∃ lo hi : BitVec 64,
    exec .agetl s = .next { s with response := some ⟨0, lo⟩ } ∧ exec .ageth s = .next { s with response := some ⟨0, hi⟩ } ∧
    hi.toNat < 2 ^ 32 ∧ hi.toNat * 2 ^ 64 + lo.toNat = s.acc.toNat

/-- The carry-less product is commutative and bilinear over XOR, and multiplies by 0, 1 and 2^k as a polynomial product does;
squaring spreads the bits, as the example of R97 shows (R97). -/
def Obligations.CarrylessProductLaws : Prop :=
  ∀ a b c k : Nat, clmul a b = clmul b a ∧ clmul a 0 = 0 ∧ clmul a 1 = a ∧ clmul a (2 ^ k) = a <<< k ∧
    clmul (a ^^^ c) b = clmul a b ^^^ clmul c b ∧
    (clmul a a).testBit (2 * k) = a.testBit k ∧ (clmul a a).testBit (2 * k + 1) = false ∧
    clmul 0xFFFFFFFF 0xFFFFFFFF = 0x5555555555555555

/-- `reduce_n(R)` is the one number below 2^n that is congruent to `R` modulo `P_n`; it is linear over XOR and leaves a number
below 2^n as it is (R99). -/
def Obligations.ReduceIsTheUniqueRemainder : Prop :=
  ∀ (w : Width) (R S : Nat), R < 2 ^ (2 * w.n) → S < 2 ^ (2 * w.n) →
    IsRemainder w R (reduce w R) ∧ (∀ r, IsRemainder w R r → r = reduce w R) ∧
    reduce w (R ^^^ S) = reduce w R ^^^ reduce w S ∧ (R < 2 ^ w.n → reduce w R = R)

/-- The two-multiplication pipeline computes the same remainder as long division, for the three widths; and the worked example of
R100, stage by stage. -/
def Obligations.PipelineEqualsLongDivision : Prop :=
  (∀ (w : Width) (R : Nat), R < 2 ^ (2 * w.n) → reducePipeline w R = reduce w R) ∧
  clmul 0xDEADBEEF 0x12345678 = 0x0C42FDE8DE112DA8 ∧ 0x0C42FDE8DE112DA8 >>> 32 = 0x0C42FDE8 ∧
  clmul 0x0C42FDE8 Width.w32.mu = 0x0C42FDEE7E201108 ∧ 0x0C42FDEE7E201108 >>> 32 = 0x0C42FDEE ∧
  clmul 0x0C42FDEE Width.w32.poly = 0x0C42FDE87E201226 ∧
  reducePipeline .w32 0x0C42FDE8DE112DA8 = 0xA0313F8E

/-- Reducing once after summing the products gives the sum of the reduced products (R107). -/
def Obligations.LazyReductionEqualsReducedSum : Prop :=
  ∀ (w : Width) (x y : List Nat), (∀ v ∈ x, v < 2 ^ w.n) → (∀ v ∈ y, v < 2 ^ w.n) →
    reduce w (lazyDot x y) = gfSum (List.zipWith (gfMul w) x y)

/-- The field laws of R90, and that a product is 0 only if a factor is. -/
def Obligations.FieldLaws : Prop :=
  ∀ (w : Width) (a b c : Nat), a < 2 ^ w.n → b < 2 ^ w.n → c < 2 ^ w.n →
    gfAdd a b = gfAdd b a ∧ gfAdd (gfAdd a b) c = gfAdd a (gfAdd b c) ∧ gfAdd a a = 0 ∧ gfAdd a 0 = a ∧
    gfMul w a (gfAdd b c) = gfAdd (gfMul w a b) (gfMul w a c) ∧ gfMul w a b = gfMul w b a ∧
    gfMul w (gfMul w a b) c = gfMul w a (gfMul w b c) ∧ gfMul w a 1 = a ∧ gfMul w a 0 = 0 ∧
    (gfMul w a b = 0 → a = 0 ∨ b = 0) ∧ (a ≠ 0 → gfMul w a (gfInv w a) = 1)

/-! ## Family 0x3_ (43_lifting.md) -/

/-- `LIFTI` leaves the image of the byte: the XOR of the powers of the generator that its bits select (R116, R119). -/
def Obligations.LiftiLeavesTheImageOfTheByte : Prop :=
  ∀ (d : EReg) (b : Byte) (w : Width) (s : State), s.Ready w →
    ∃ t, exec (.lifti d b) s = .next t ∧ t.response = some ⟨0, 0⟩ ∧
      t.elem d = liftClosed w (liftGen s.config w) b.toNat ∧ OnlyElem d s t

/-- `VLIFT` lifts a byte vector, at stride 1, to an element vector; the bytes are read before anything is written (R47, R120). -/
def Obligations.VliftLiftsTheByteVector : Prop :=
  ∀ (d a : DReg) (w : Width) (s : State), s.Ready w → s.InRange (s.base a) (s.len a) 1 → s.DestInRange w d (s.len a) →
    ∃ t, exec (.vlift d a) s = .next t ∧ t.response = some ⟨0, 0⟩ ∧
      t.readVec w d = (List.range (s.len a)).map (fun j =>
        liftClosed w (liftGen s.config w) (s.byte (s.base a + j)).toNat) ∧
      OnlyVec w d (s.len a) s t

/-- The lifting is additive for any generator (R116), and for a generator that is a root of 0x11B it is multiplicative and injective.
That 0x11B is the modulus of the byte field is PRESUMED (log entry 8): the spec marks it as general knowledge (G1). -/
def Obligations.LiftingIsARingEmbedding : Prop :=
  ∀ (c : Config) (w : Width) (x y : Nat), x < 256 → y < 256 →
    lift c w 0 = 0 ∧ lift c w 1 = 1 ∧ lift c w (x ^^^ y) = gfAdd (lift c w x) (lift c w y) ∧
    (isAesRoot w (liftGen c w) = true →
      lift c w (byteMul x y) = gfMul w (lift c w x) (lift c w y) ∧ (lift c w x = lift c w y → x = y))

/-! ## Family 0x4_ (44_polynomial.md) -/

/-- `PGEN` writes `cnt` elements, the first 2 and each next one twice its predecessor in the field; `LEN` becomes `cnt` (R128). -/
def Obligations.PgenWritesSuccessivePowersOfTwo : Prop :=
  ∀ (d : DReg) (cnt : Half) (w : Width) (s : State), s.Ready w → s.DestInRange w d cnt.toNat →
    ∃ t, exec (.pgen d cnt) s = .next t ∧ t.response = some ⟨0, 0⟩ ∧ t.len d = cnt.toNat ∧
      (0 < cnt.toNat → (t.readVec w d).getD 0 0 = 2) ∧
      (∀ j, j + 1 < cnt.toNat → (t.readVec w d).getD (j + 1) 0 = gfMul w ((t.readVec w d).getD j 0) 2) ∧
      OnlyVec w d cnt.toNat s t

/-- `PROOTS` writes the k + 1 coefficients of the monic polynomial with the k given roots; the roots are read first (R126, R129). -/
def Obligations.ProotsWritesThePolynomialOfTheRoots : Prop :=
  ∀ (d a : DReg) (w : Width) (s : State), s.Ready w → s.VecInRange w a → s.DestInRange w d (s.len a + 1) →
    ∃ t, exec (.proots d a) s = .next t ∧ t.response = some ⟨0, 0⟩ ∧ t.len d = s.len a + 1 ∧
      t.readVec w d = polyFromRoots w (s.readVec w a) ∧ OnlyVec w d (s.len a + 1) s t

/-- `PEVAL` leaves the value of the polynomial at the point: the sum of c_i · x^i (R127, R130). -/
def Obligations.PevalLeavesTheValueOfThePolynomial : Prop :=
  ∀ (d : EReg) (a : DReg) (b : EReg) (w : Width) (s : State), s.Ready w → s.elem b < 2 ^ w.n → s.VecInRange w a →
    ∃ t, exec (.peval d a b) s = .next t ∧ t.response = some ⟨0, 0⟩ ∧
      t.elem d = gfSum ((List.range (s.len a)).map fun i =>
        gfMul w ((s.readVec w a).getD i 0) (gfPow w (s.elem b) i)) ∧
      OnlyElem d s t

/-- `poly_from_roots` of k roots has k + 1 coefficients, the top one 1, and its value at x is the product of x + r over the roots
(R126). -/
def Obligations.PolynomialFromRootsIsTheProductOfItsFactors : Prop :=
  ∀ (w : Width) (roots : List Nat) (x : Nat), (∀ r ∈ roots, r < 2 ^ w.n) → x < 2 ^ w.n →
    (polyFromRoots w roots).length = roots.length + 1 ∧ (polyFromRoots w roots).getLast? = some 1 ∧
    horner w (polyFromRoots w roots) x = gfProd w (roots.map fun r => gfAdd x r)

/-! ## Family 0x5_ (45_lagrange.md) -/

/-- `LPRE` on pairwise distinct points writes m rows of m coefficients, row k the polynomial that is 1 at point k and 0 at the
others; `LEN` becomes m·m (R135, R136, R137). -/
def Obligations.LpreWritesTheLagrangeBasis : Prop :=
  ∀ (d a : DReg) (w : Width) (s : State), s.Ready w → s.VecInRange w a → s.DestInRange w d (s.len a * s.len a) →
    (s.readVec w a).Nodup →
    ∃ t, exec (.lpre d a) s = .next t ∧ t.response = some ⟨0, 0⟩ ∧ t.len d = s.len a * s.len a ∧
      (∀ k j, k < s.len a → j < s.len a →
        horner w (((t.readVec w d).drop (k * s.len a)).take (s.len a)) ((s.readVec w a).getD j 0) = if j = k then 1 else 0) ∧
      OnlyVec w d (s.len a * s.len a) s t

/-- `LINT` writes the m coefficients whose j-th is the sum of y_k · B[k·m + j]; basis and values are read first (R138, R139). -/
def Obligations.LintWritesTheLinearCombination : Prop :=
  ∀ (d a b : DReg) (w : Width) (s : State), s.Ready w → s.len b ≠ 0 → s.len a = s.len b * s.len b →
    s.VecInRange w a → s.VecInRange w b → s.DestInRange w d (s.len b) →
    ∃ t, exec (.lint d a b) s = .next t ∧ t.response = some ⟨0, 0⟩ ∧ t.len d = s.len b ∧
      (∀ j < s.len b, (t.readVec w d).getD j 0 = gfSum ((List.range (s.len b)).map fun k =>
        gfMul w ((s.readVec w b).getD k 0) ((s.readVec w a).getD (k * s.len b + j) 0))) ∧
      OnlyVec w d (s.len b) s t

/-- The polynomial interpolated through distinct points takes the given value at every point (R140). -/
def Obligations.InterpolationPassesThroughThePoints : Prop :=
  ∀ (w : Width) (x y : List Nat), (∀ v ∈ x, v < 2 ^ w.n) → (∀ v ∈ y, v < 2 ^ w.n) → x.Nodup → x.length = y.length →
    ∀ k < x.length, horner w (interpolate w (lagrangeBasis w x) y) (x.getD k 0) = y.getD k 0

/-! ## Family 0x6_ (46_vector.md) -/

/-- `VADD` writes the pairwise sums, and sets `LEN` to the common length; the sources are read first, so they may overlap the
destination (R47, R146). -/
def Obligations.VaddWritesThePairwiseSums : Prop :=
  ∀ (d a b : DReg) (w : Width) (s : State), s.Ready w → s.len a = s.len b → s.VecInRange w a → s.VecInRange w b →
    s.DestInRange w d (s.len a) →
    ∃ t, exec (.vadd d a b) s = .next t ∧ t.response = some ⟨0, 0⟩ ∧ t.len d = s.len a ∧
      (∀ j < s.len a, (t.readVec w d).getD j 0 = (s.readVec w a).getD j 0 ^^^ (s.readVec w b).getD j 0) ∧
      OnlyVec w d (s.len a) s t

/-- `VSCALE` writes the products of the items with the scalar (R47, R147). -/
def Obligations.VscaleWritesTheScaledItems : Prop :=
  ∀ (d a : DReg) (b : EReg) (w : Width) (s : State), s.Ready w → s.elem b < 2 ^ w.n → s.VecInRange w a →
    s.DestInRange w d (s.len a) →
    ∃ t, exec (.vscale d a b) s = .next t ∧ t.response = some ⟨0, 0⟩ ∧ t.len d = s.len a ∧
      (∀ j < s.len a, (t.readVec w d).getD j 0 = gfMul w ((s.readVec w a).getD j 0) (s.elem b)) ∧
      OnlyVec w d (s.len a) s t

/-- `VDOT` leaves the unreduced sum of products in `ACC` and, in `E[d]`, the sum of the reduced products (R107, R148). -/
def Obligations.VdotLeavesSumAndDotProduct : Prop :=
  ∀ (d : EReg) (a b : DReg) (w : Width) (s : State), s.Ready w → s.len a = s.len b → s.VecInRange w a → s.VecInRange w b →
    ∃ t, exec (.vdot d a b) s = .next t ∧ t.response = some ⟨0, 0⟩ ∧
      t.acc.toNat = gfSum ((List.range (s.len a)).map fun j => clmul ((s.readVec w a).getD j 0) ((s.readVec w b).getD j 0)) ∧
      t.elem d = gfSum ((List.range (s.len a)).map fun j => gfMul w ((s.readVec w a).getD j 0) ((s.readVec w b).getD j 0)) ∧
      SameControl s t ∧ t.eq = s.eq ∧ (∀ i : EReg, i ≠ d → t.elem i = s.elem i) ∧ SameDescs s t ∧ SameBytes s t

/-- `VCONV` of vectors of lengths La and Lb writes La + Lb − 1 coefficients, none when a length is 0, and the result is the product
polynomial: its value at every point is the product of the operands' values (R149, R150). -/
def Obligations.VconvWritesTheProductPolynomial : Prop :=
  ∀ (d a b : DReg) (w : Width) (s : State), s.Ready w → s.VecInRange w a → s.VecInRange w b →
    s.DestInRange w d (convLength (s.len a) (s.len b)) →
    ∃ t, exec (.vconv d a b) s = .next t ∧ t.response = some ⟨0, 0⟩ ∧
      (s.len a = 0 ∨ s.len b = 0 → t.len d = 0) ∧
      (s.len a ≠ 0 → s.len b ≠ 0 → t.len d = s.len a + s.len b - 1) ∧
      (∀ k < t.len d, (t.readVec w d).getD k 0 = gfSum ((List.range (s.len a)).map fun i =>
        if i ≤ k ∧ k - i < s.len b then gfMul w ((s.readVec w a).getD i 0) ((s.readVec w b).getD (k - i) 0) else 0)) ∧
      (∀ x < 2 ^ w.n, horner w (t.readVec w d) x = gfMul w (horner w (s.readVec w a) x) (horner w (s.readVec w b) x)) ∧
      OnlyVec w d (t.len d) s t
end

