-- ==== Sys2Proof/Laws/Field.lean ====
section
/-! SUPPORT. The range of every function of the datapath, and the length of every list the sequencers build. -/

namespace Sys2Proof.Machine

/-! ## Widths and moduli -/

theorem Width.n_cases (w : Width) : w.n = 32 ∨ w.n = 40 ∨ w.n = 48 := by cases w <;> simp [Width.n, Width.bs]
theorem Width.n_pos (w : Width) : 0 < w.n := by have := Width.n_cases w; omega
theorem Width.n_le (w : Width) : w.n ≤ 48 := by have := Width.n_cases w; omega
theorem Width.bs_cases (w : Width) : w.bs = 4 ∨ w.bs = 5 ∨ w.bs = 6 := by cases w <;> simp [Width.bs]

/-- An element of n bits is `bs` bytes (R31). -/
theorem Width.pow_bs (w : Width) : 256 ^ w.bs = 2 ^ w.n := by cases w <;> rfl

theorem Width.poly_lt (w : Width) : w.poly < 2 ^ (w.n + 1) := by cases w <;> decide
theorem Width.poly_testBit_n (w : Width) : w.poly.testBit w.n = true := by cases w <;> decide
theorem Width.pow_n_le (w : Width) : 2 ^ w.n ≤ 2 ^ 48 := Nat.pow_le_pow_right (by decide) (Width.n_le w)

/-! ## Carry-less product (R96) -/

theorem clmul_eq (a b : Nat) : clmul a b = clmulBits a b (b.log2 + 1) := by simp [clmul]

theorem clmulBits_lt {a b n m : Nat} (ha : a < 2 ^ n) (hb : b < 2 ^ m) (k : Nat) :
    clmulBits a b k < 2 ^ (n + m - 1) := by
  induction k with
  | zero => exact Nat.two_pow_pos _
  | succ k ih =>
    refine Nat.xor_lt_two_pow ih ?_
    split_ifs with h
    · have hk : k < m := by
        by_contra hk
        have : b < 2 ^ k := Nat.lt_of_lt_of_le hb (Nat.pow_le_pow_right (by decide) (by omega))
        rw [Nat.testBit_lt_two_pow this] at h
        cases h
      rw [Nat.shiftLeft_eq]
      calc a * 2 ^ k < 2 ^ n * 2 ^ k := Nat.mul_lt_mul_of_pos_right ha (Nat.two_pow_pos k)
        _ = 2 ^ (n + k) := (Nat.pow_add 2 n k).symm
        _ ≤ 2 ^ (n + m - 1) := Nat.pow_le_pow_right (by decide) (by omega)
    · exact Nat.two_pow_pos _

/-- The product of an n-bit and an m-bit number has at most n + m − 1 bits (R96). -/
theorem clmul_lt {a b n m : Nat} (ha : a < 2 ^ n) (hb : b < 2 ^ m) : clmul a b < 2 ^ (n + m - 1) :=
  clmul_eq a b ▸ clmulBits_lt ha hb _

/-! ## Reduction (R99) -/

/-- One round of the long division clears bit n + j. -/
theorem reduce_round_lt (w : Width) {j r : Nat} (h : r < 2 ^ (w.n + j + 1)) :
    (if r.testBit (w.n + j) then r ^^^ (w.poly <<< j) else r) < 2 ^ (w.n + j) := by
  have hp : w.poly <<< j < 2 ^ (w.n + j + 1) := by
    rw [Nat.shiftLeft_eq, show w.n + j + 1 = (w.n + 1) + j by omega, Nat.pow_add]
    exact Nat.mul_lt_mul_of_pos_right (Width.poly_lt w) (Nat.two_pow_pos j)
  apply Nat.lt_pow_two_of_testBit
  intro i hi
  rcases Nat.lt_or_ge (w.n + j) i with hi' | hi'
  · have hpow : 2 ^ (w.n + j + 1) ≤ 2 ^ i := Nat.pow_le_pow_right (by decide) hi'
    have h1 := Nat.testBit_lt_two_pow (Nat.lt_of_lt_of_le h hpow)
    have h2 := Nat.testBit_lt_two_pow (Nat.lt_of_lt_of_le hp hpow)
    split_ifs
    · rw [Nat.testBit_xor, h1, h2]; rfl
    · exact h1
  · obtain rfl : i = w.n + j := by omega
    split_ifs with hb
    · rw [Nat.testBit_xor, hb, Nat.testBit_shiftLeft]
      simp [Width.poly_testBit_n]
    · simpa using hb

theorem reduceFrom_lt (w : Width) (j : Nat) {r : Nat} (h : r < 2 ^ (w.n + j)) : reduceFrom w j r < 2 ^ w.n := by
  induction j generalizing r with
  | zero => exact h
  | succ j ih =>
    rw [reduceFrom, strict_eq]
    exact ih (reduce_round_lt w h)

/-- `reduce_n` of a number below 2^(2n) is below 2^n (R99). -/
theorem reduce_lt (w : Width) {r : Nat} (h : r < 2 ^ (2 * w.n)) : reduce w r < 2 ^ w.n := by
  rw [reduce, strict_eq]
  exact reduceFrom_lt w w.n (by rwa [← Nat.two_mul])

/-! ## Field operations (R76 to R79) -/

theorem gfAdd_lt {a b n : Nat} (ha : a < 2 ^ n) (hb : b < 2 ^ n) : gfAdd a b < 2 ^ n := Nat.xor_lt_two_pow ha hb

theorem gfMul_lt (w : Width) {a b : Nat} (ha : a < 2 ^ w.n) (hb : b < 2 ^ w.n) : gfMul w a b < 2 ^ w.n :=
  reduce_lt w (Nat.lt_of_lt_of_le (clmul_lt ha hb) (Nat.pow_le_pow_right (by decide) (by omega)))

theorem Width.one_lt_pow (w : Width) : 1 < 2 ^ w.n := Nat.one_lt_two_pow (Nat.ne_of_gt (Width.n_pos w))

theorem gfPowLoop_lt (w : Width) (fuel : Nat) {r a e : Nat} (hr : r < 2 ^ w.n) (ha : a < 2 ^ w.n) :
    gfPowLoop w fuel r a e < 2 ^ w.n := by
  induction fuel generalizing r a e with
  | zero => exact hr
  | succ fuel ih =>
    rw [gfPowLoop]
    simp only [strict_eq]
    have hra : (if e % 2 = 1 then gfMul w r a else r) < 2 ^ w.n := by
      split_ifs
      · exact gfMul_lt w hr ha
      · exact hr
    split_ifs with h
    · exact hr
    · exact ih (gfMul_lt w hr ha) (gfMul_lt w ha ha)
    · exact ih hr (gfMul_lt w ha ha)

theorem gfPow_lt (w : Width) {a : Nat} (ha : a < 2 ^ w.n) (e : Nat) : gfPow w a e < 2 ^ w.n :=
  gfPowLoop_lt w _ (Width.one_lt_pow w) ha

theorem gfInv_lt (w : Width) {a : Nat} (ha : a < 2 ^ w.n) : gfInv w a < 2 ^ w.n := gfPow_lt w ha _

theorem gfSum_lt {n : Nat} {l : List Nat} (h : ∀ v ∈ l, v < 2 ^ n) : gfSum l < 2 ^ n := by
  induction l with
  | nil => exact Nat.two_pow_pos _
  | cons v l ih => exact gfAdd_lt (h v (by simp)) (ih fun x hx => h x (by simp [hx]))

theorem gfProd_lt (w : Width) {l : List Nat} (h : ∀ v ∈ l, v < 2 ^ w.n) : gfProd w l < 2 ^ w.n := by
  induction l with
  | nil => exact Width.one_lt_pow w
  | cons v l ih => exact gfMul_lt w (h v (by simp)) (ih fun x hx => h x (by simp [hx]))

/-! ## Lengths of the lists the sequencers build -/

@[simp] theorem mulByRoot_length (w : Width) (p : List Nat) (r : Nat) : (mulByRoot w p r).length = p.length + 1 := by
  simp [mulByRoot]

@[simp] theorem fieldPoints_length (w : Width) (cnt : Nat) : (fieldPoints w cnt).length = cnt := by simp [fieldPoints]

@[simp] theorem interpolate_length (w : Width) (basis y : List Nat) : (interpolate w basis y).length = y.length := by
  simp [interpolate]

@[simp] theorem convolve_length (w : Width) (x y : List Nat) :
    (convolve w x y).length = convLength x.length y.length := by simp [convolve]

theorem liftRounds_length (w : Width) (g k : Nat) (t : List Nat) (pow : Nat) :
    (liftRounds w g k t pow).length = t.length * 2 ^ k := by
  induction k generalizing t pow with
  | zero => simp [liftRounds]
  | succ k ih =>
    rw [liftRounds, strict_eq, ih, List.length_append, List.length_map, Nat.pow_succ']
    ring

@[simp] theorem liftTableOf_length (w : Width) (g : Nat) : (liftTableOf w g).length = 256 :=
  liftRounds_length w g 7 [0, 1] g

/-- A generator is an element of its field (R117). -/
theorem liftGen_lt (c : Config) (w : Width) : liftGen c w < 2 ^ w.n := by
  cases w
  · exact c.liftGen32.isLt
  · exact c.liftGen40.isLt
  · exact c.liftGen48.isLt

end Sys2Proof.Machine
end

