-- ==== Sys2Proof/Laws/State.lean ====
section
/-! SUPPORT. What each update of the state leaves in each field: one lemma per field per update, true by `rfl`. -/

namespace Sys2Proof.Machine

variable (s : State)

/-! ### `setElem` -/

@[simp] theorem State.setElem_lambda (i : EReg) (v : Nat) : (s.setElem i v).lambda = s.lambda := rfl
@[simp] theorem State.setElem_eq (i : EReg) (v : Nat) : (s.setElem i v).eq = s.eq := rfl
@[simp] theorem State.setElem_err (i : EReg) (v : Nat) : (s.setElem i v).err = s.err := rfl
@[simp] theorem State.setElem_ecmd (i : EReg) (v : Nat) : (s.setElem i v).ecmd = s.ecmd := rfl
@[simp] theorem State.setElem_e (i : EReg) (v : Nat) : (s.setElem i v).e = s.e.set i.val (BitVec.ofNat 48 v) := rfl
@[simp] theorem State.setElem_d (i : EReg) (v : Nat) : (s.setElem i v).d = s.d := rfl
@[simp] theorem State.setElem_acc (i : EReg) (v : Nat) : (s.setElem i v).acc = s.acc := rfl
@[simp] theorem State.setElem_mem (i : EReg) (v : Nat) : (s.setElem i v).mem = s.mem := rfl
@[simp] theorem State.setElem_epoch (i : EReg) (v : Nat) : (s.setElem i v).epoch = s.epoch := rfl
@[simp] theorem State.setElem_config (i : EReg) (v : Nat) : (s.setElem i v).config = s.config := rfl
@[simp] theorem State.setElem_pending (i : EReg) (v : Nat) : (s.setElem i v).pending = s.pending := rfl
@[simp] theorem State.setElem_response (i : EReg) (v : Nat) : (s.setElem i v).response = s.response := rfl

/-! ### `setBase` -/

@[simp] theorem State.setBase_lambda (i : DReg) (v : Half) : (s.setBase i v).lambda = s.lambda := rfl
@[simp] theorem State.setBase_eq (i : DReg) (v : Half) : (s.setBase i v).eq = s.eq := rfl
@[simp] theorem State.setBase_err (i : DReg) (v : Half) : (s.setBase i v).err = s.err := rfl
@[simp] theorem State.setBase_ecmd (i : DReg) (v : Half) : (s.setBase i v).ecmd = s.ecmd := rfl
@[simp] theorem State.setBase_e (i : DReg) (v : Half) : (s.setBase i v).e = s.e := rfl
@[simp] theorem State.setBase_d (i : DReg) (v : Half) : (s.setBase i v).d = s.d.set i.val { s.d[i.val] with base := v } := rfl
@[simp] theorem State.setBase_acc (i : DReg) (v : Half) : (s.setBase i v).acc = s.acc := rfl
@[simp] theorem State.setBase_mem (i : DReg) (v : Half) : (s.setBase i v).mem = s.mem := rfl
@[simp] theorem State.setBase_epoch (i : DReg) (v : Half) : (s.setBase i v).epoch = s.epoch := rfl
@[simp] theorem State.setBase_config (i : DReg) (v : Half) : (s.setBase i v).config = s.config := rfl
@[simp] theorem State.setBase_pending (i : DReg) (v : Half) : (s.setBase i v).pending = s.pending := rfl
@[simp] theorem State.setBase_response (i : DReg) (v : Half) : (s.setBase i v).response = s.response := rfl

/-! ### `setLen` -/

@[simp] theorem State.setLen_lambda (i : DReg) (v : Half) : (s.setLen i v).lambda = s.lambda := rfl
@[simp] theorem State.setLen_eq (i : DReg) (v : Half) : (s.setLen i v).eq = s.eq := rfl
@[simp] theorem State.setLen_err (i : DReg) (v : Half) : (s.setLen i v).err = s.err := rfl
@[simp] theorem State.setLen_ecmd (i : DReg) (v : Half) : (s.setLen i v).ecmd = s.ecmd := rfl
@[simp] theorem State.setLen_e (i : DReg) (v : Half) : (s.setLen i v).e = s.e := rfl
@[simp] theorem State.setLen_d (i : DReg) (v : Half) : (s.setLen i v).d = s.d.set i.val { s.d[i.val] with len := v } := rfl
@[simp] theorem State.setLen_acc (i : DReg) (v : Half) : (s.setLen i v).acc = s.acc := rfl
@[simp] theorem State.setLen_mem (i : DReg) (v : Half) : (s.setLen i v).mem = s.mem := rfl
@[simp] theorem State.setLen_epoch (i : DReg) (v : Half) : (s.setLen i v).epoch = s.epoch := rfl
@[simp] theorem State.setLen_config (i : DReg) (v : Half) : (s.setLen i v).config = s.config := rfl
@[simp] theorem State.setLen_pending (i : DReg) (v : Half) : (s.setLen i v).pending = s.pending := rfl
@[simp] theorem State.setLen_response (i : DReg) (v : Half) : (s.setLen i v).response = s.response := rfl

/-! ### `setAcc` -/

@[simp] theorem State.setAcc_lambda (v : Nat) : (s.setAcc v).lambda = s.lambda := rfl
@[simp] theorem State.setAcc_eq (v : Nat) : (s.setAcc v).eq = s.eq := rfl
@[simp] theorem State.setAcc_err (v : Nat) : (s.setAcc v).err = s.err := rfl
@[simp] theorem State.setAcc_ecmd (v : Nat) : (s.setAcc v).ecmd = s.ecmd := rfl
@[simp] theorem State.setAcc_e (v : Nat) : (s.setAcc v).e = s.e := rfl
@[simp] theorem State.setAcc_d (v : Nat) : (s.setAcc v).d = s.d := rfl
@[simp] theorem State.setAcc_acc (v : Nat) : (s.setAcc v).acc = BitVec.ofNat 96 v := rfl
@[simp] theorem State.setAcc_mem (v : Nat) : (s.setAcc v).mem = s.mem := rfl
@[simp] theorem State.setAcc_epoch (v : Nat) : (s.setAcc v).epoch = s.epoch := rfl
@[simp] theorem State.setAcc_config (v : Nat) : (s.setAcc v).config = s.config := rfl
@[simp] theorem State.setAcc_pending (v : Nat) : (s.setAcc v).pending = s.pending := rfl
@[simp] theorem State.setAcc_response (v : Nat) : (s.setAcc v).response = s.response := rfl

/-! ### `setByte` -/

@[simp] theorem State.setByte_lambda (a : Nat) (v : Byte) : (s.setByte a v).lambda = s.lambda := rfl
@[simp] theorem State.setByte_eq (a : Nat) (v : Byte) : (s.setByte a v).eq = s.eq := rfl
@[simp] theorem State.setByte_err (a : Nat) (v : Byte) : (s.setByte a v).err = s.err := rfl
@[simp] theorem State.setByte_ecmd (a : Nat) (v : Byte) : (s.setByte a v).ecmd = s.ecmd := rfl
@[simp] theorem State.setByte_e (a : Nat) (v : Byte) : (s.setByte a v).e = s.e := rfl
@[simp] theorem State.setByte_d (a : Nat) (v : Byte) : (s.setByte a v).d = s.d := rfl
@[simp] theorem State.setByte_acc (a : Nat) (v : Byte) : (s.setByte a v).acc = s.acc := rfl
@[simp] theorem State.setByte_mem (a : Nat) (v : Byte) : (s.setByte a v).mem = Memory.insert s.mem a v := rfl
@[simp] theorem State.setByte_epoch (a : Nat) (v : Byte) : (s.setByte a v).epoch = s.epoch := rfl
@[simp] theorem State.setByte_config (a : Nat) (v : Byte) : (s.setByte a v).config = s.config := rfl
@[simp] theorem State.setByte_pending (a : Nat) (v : Byte) : (s.setByte a v).pending = s.pending := rfl
@[simp] theorem State.setByte_response (a : Nat) (v : Byte) : (s.setByte a v).response = s.response := rfl

/-! ### `respond` -/

@[simp] theorem State.respond_lambda (c : BitVec 4) (x : BitVec 64) : (s.respond c x).lambda = s.lambda := rfl
@[simp] theorem State.respond_eq (c : BitVec 4) (x : BitVec 64) : (s.respond c x).eq = s.eq := rfl
@[simp] theorem State.respond_err (c : BitVec 4) (x : BitVec 64) : (s.respond c x).err = s.err := rfl
@[simp] theorem State.respond_ecmd (c : BitVec 4) (x : BitVec 64) : (s.respond c x).ecmd = s.ecmd := rfl
@[simp] theorem State.respond_e (c : BitVec 4) (x : BitVec 64) : (s.respond c x).e = s.e := rfl
@[simp] theorem State.respond_d (c : BitVec 4) (x : BitVec 64) : (s.respond c x).d = s.d := rfl
@[simp] theorem State.respond_acc (c : BitVec 4) (x : BitVec 64) : (s.respond c x).acc = s.acc := rfl
@[simp] theorem State.respond_mem (c : BitVec 4) (x : BitVec 64) : (s.respond c x).mem = s.mem := rfl
@[simp] theorem State.respond_epoch (c : BitVec 4) (x : BitVec 64) : (s.respond c x).epoch = s.epoch := rfl
@[simp] theorem State.respond_config (c : BitVec 4) (x : BitVec 64) : (s.respond c x).config = s.config := rfl
@[simp] theorem State.respond_pending (c : BitVec 4) (x : BitVec 64) : (s.respond c x).pending = s.pending := rfl
@[simp] theorem State.respond_response (c : BitVec 4) (x : BitVec 64) : (s.respond c x).response = some ⟨c, x⟩ := rfl

/-! ### `ok` -/

@[simp] theorem State.ok_lambda : (s.ok).lambda = s.lambda := rfl
@[simp] theorem State.ok_eq : (s.ok).eq = s.eq := rfl
@[simp] theorem State.ok_err : (s.ok).err = s.err := rfl
@[simp] theorem State.ok_ecmd : (s.ok).ecmd = s.ecmd := rfl
@[simp] theorem State.ok_e : (s.ok).e = s.e := rfl
@[simp] theorem State.ok_d : (s.ok).d = s.d := rfl
@[simp] theorem State.ok_acc : (s.ok).acc = s.acc := rfl
@[simp] theorem State.ok_mem : (s.ok).mem = s.mem := rfl
@[simp] theorem State.ok_epoch : (s.ok).epoch = s.epoch := rfl
@[simp] theorem State.ok_config : (s.ok).config = s.config := rfl
@[simp] theorem State.ok_pending : (s.ok).pending = s.pending := rfl
@[simp] theorem State.ok_response : (s.ok).response = some ⟨0, 0⟩ := rfl

/-! ### `okData` -/

@[simp] theorem State.okData_lambda (v : Nat) : (s.okData v).lambda = s.lambda := rfl
@[simp] theorem State.okData_eq (v : Nat) : (s.okData v).eq = s.eq := rfl
@[simp] theorem State.okData_err (v : Nat) : (s.okData v).err = s.err := rfl
@[simp] theorem State.okData_ecmd (v : Nat) : (s.okData v).ecmd = s.ecmd := rfl
@[simp] theorem State.okData_e (v : Nat) : (s.okData v).e = s.e := rfl
@[simp] theorem State.okData_d (v : Nat) : (s.okData v).d = s.d := rfl
@[simp] theorem State.okData_acc (v : Nat) : (s.okData v).acc = s.acc := rfl
@[simp] theorem State.okData_mem (v : Nat) : (s.okData v).mem = s.mem := rfl
@[simp] theorem State.okData_epoch (v : Nat) : (s.okData v).epoch = s.epoch := rfl
@[simp] theorem State.okData_config (v : Nat) : (s.okData v).config = s.config := rfl
@[simp] theorem State.okData_pending (v : Nat) : (s.okData v).pending = s.pending := rfl
@[simp] theorem State.okData_response (v : Nat) : (s.okData v).response = some ⟨0, BitVec.ofNat 64 v⟩ := rfl

/-! ### `raise` -/

@[simp] theorem State.raise_lambda (w : Word) (x : ErrorKind) : (s.raise w x).lambda = s.lambda := rfl
@[simp] theorem State.raise_eq (w : Word) (x : ErrorKind) : (s.raise w x).eq = s.eq := rfl
@[simp] theorem State.raise_err (w : Word) (x : ErrorKind) : (s.raise w x).err = x.code := rfl
@[simp] theorem State.raise_ecmd (w : Word) (x : ErrorKind) : (s.raise w x).ecmd = w := rfl
@[simp] theorem State.raise_e (w : Word) (x : ErrorKind) : (s.raise w x).e = s.e := rfl
@[simp] theorem State.raise_d (w : Word) (x : ErrorKind) : (s.raise w x).d = s.d := rfl
@[simp] theorem State.raise_acc (w : Word) (x : ErrorKind) : (s.raise w x).acc = s.acc := rfl
@[simp] theorem State.raise_mem (w : Word) (x : ErrorKind) : (s.raise w x).mem = s.mem := rfl
@[simp] theorem State.raise_epoch (w : Word) (x : ErrorKind) : (s.raise w x).epoch = s.epoch := rfl
@[simp] theorem State.raise_config (w : Word) (x : ErrorKind) : (s.raise w x).config = s.config := rfl
@[simp] theorem State.raise_pending (w : Word) (x : ErrorKind) : (s.raise w x).pending = s.pending := rfl
@[simp] theorem State.raise_response (w : Word) (x : ErrorKind) : (s.raise w x).response = some ⟨x.code, 0⟩ := rfl

/-! ### `raiseBy` -/

@[simp] theorem State.raiseBy_lambda (i : Instr) (x : ErrorKind) : (s.raiseBy i x).lambda = s.lambda := rfl
@[simp] theorem State.raiseBy_eq (i : Instr) (x : ErrorKind) : (s.raiseBy i x).eq = s.eq := rfl
@[simp] theorem State.raiseBy_err (i : Instr) (x : ErrorKind) : (s.raiseBy i x).err = x.code := rfl
@[simp] theorem State.raiseBy_ecmd (i : Instr) (x : ErrorKind) : (s.raiseBy i x).ecmd = encode i := rfl
@[simp] theorem State.raiseBy_e (i : Instr) (x : ErrorKind) : (s.raiseBy i x).e = s.e := rfl
@[simp] theorem State.raiseBy_d (i : Instr) (x : ErrorKind) : (s.raiseBy i x).d = s.d := rfl
@[simp] theorem State.raiseBy_acc (i : Instr) (x : ErrorKind) : (s.raiseBy i x).acc = s.acc := rfl
@[simp] theorem State.raiseBy_mem (i : Instr) (x : ErrorKind) : (s.raiseBy i x).mem = s.mem := rfl
@[simp] theorem State.raiseBy_epoch (i : Instr) (x : ErrorKind) : (s.raiseBy i x).epoch = s.epoch := rfl
@[simp] theorem State.raiseBy_config (i : Instr) (x : ErrorKind) : (s.raiseBy i x).config = s.config := rfl
@[simp] theorem State.raiseBy_pending (i : Instr) (x : ErrorKind) : (s.raiseBy i x).pending = s.pending := rfl
@[simp] theorem State.raiseBy_response (i : Instr) (x : ErrorKind) : (s.raiseBy i x).response = some ⟨x.code, 0⟩ := rfl

/-! ### `clearError` -/

@[simp] theorem State.clearError_lambda : (s.clearError).lambda = s.lambda := rfl
@[simp] theorem State.clearError_eq : (s.clearError).eq = s.eq := rfl
@[simp] theorem State.clearError_err : (s.clearError).err = 0 := rfl
@[simp] theorem State.clearError_ecmd : (s.clearError).ecmd = 0 := rfl
@[simp] theorem State.clearError_e : (s.clearError).e = s.e := rfl
@[simp] theorem State.clearError_d : (s.clearError).d = s.d := rfl
@[simp] theorem State.clearError_acc : (s.clearError).acc = s.acc := rfl
@[simp] theorem State.clearError_mem : (s.clearError).mem = s.mem := rfl
@[simp] theorem State.clearError_epoch : (s.clearError).epoch = s.epoch := rfl
@[simp] theorem State.clearError_config : (s.clearError).config = s.config := rfl
@[simp] theorem State.clearError_pending : (s.clearError).pending = s.pending := rfl
@[simp] theorem State.clearError_response : (s.clearError).response = s.response := rfl

/-! ### `configure` -/

@[simp] theorem State.configure_lambda (w : Width) : (s.configure w).lambda = some w := rfl
@[simp] theorem State.configure_eq (w : Width) : (s.configure w).eq = false := rfl
@[simp] theorem State.configure_err (w : Width) : (s.configure w).err = s.err := rfl
@[simp] theorem State.configure_ecmd (w : Width) : (s.configure w).ecmd = s.ecmd := rfl
@[simp] theorem State.configure_e (w : Width) : (s.configure w).e = Vector.replicate 16 0 := rfl
@[simp] theorem State.configure_d (w : Width) : (s.configure w).d = s.d := rfl
@[simp] theorem State.configure_acc (w : Width) : (s.configure w).acc = 0 := rfl
@[simp] theorem State.configure_mem (w : Width) : (s.configure w).mem = s.mem := rfl
@[simp] theorem State.configure_epoch (w : Width) : (s.configure w).epoch = s.epoch := rfl
@[simp] theorem State.configure_config (w : Width) : (s.configure w).config = s.config := rfl
@[simp] theorem State.configure_pending (w : Width) : (s.configure w).pending = s.pending := rfl
@[simp] theorem State.configure_response (w : Width) : (s.configure w).response = s.response := rfl

/-! ### `afterReset` and `resetUnit` -/

variable (c : Config) (k : Nat) (p : List HostEvent)

@[simp] theorem State.afterReset_lambda : (State.afterReset c k p).lambda = none := rfl
@[simp] theorem State.afterReset_eq : (State.afterReset c k p).eq = false := rfl
@[simp] theorem State.afterReset_err : (State.afterReset c k p).err = 0 := rfl
@[simp] theorem State.afterReset_ecmd : (State.afterReset c k p).ecmd = 0 := rfl
@[simp] theorem State.afterReset_e : (State.afterReset c k p).e = Vector.replicate 16 0 := rfl
@[simp] theorem State.afterReset_d : (State.afterReset c k p).d = Vector.replicate 16 ⟨0, 0⟩ := rfl
@[simp] theorem State.afterReset_acc : (State.afterReset c k p).acc = 0 := rfl
@[simp] theorem State.afterReset_mem : (State.afterReset c k p).mem = [] := rfl
@[simp] theorem State.afterReset_epoch : (State.afterReset c k p).epoch = k := rfl
@[simp] theorem State.afterReset_config : (State.afterReset c k p).config = c := rfl
@[simp] theorem State.afterReset_pending : (State.afterReset c k p).pending = p := rfl
@[simp] theorem State.afterReset_response : (State.afterReset c k p).response = none := rfl

theorem State.resetUnit_eq : s.resetUnit = State.afterReset s.config (s.epoch + 1) s.pending := rfl
theorem State.reset_eq : State.reset = State.afterReset Config.reference 0 [] := rfl

end Sys2Proof.Machine
end

