-- ==== Sys2Proof/Laws/Memory.lean ====
section
/-! SUPPORT. The scratchpad: what each memory operation does, and that every one keeps the canonical form. -/

namespace Sys2Proof.Machine

/-! ## Lists of cells -/

@[simp] theorem Memory.lookup_nil (a : Nat) : Memory.lookup [] a = none := rfl

theorem Memory.lookup_insert (m : List Host.Cell) (a x : Nat) (v : Byte) :
    Memory.lookup (Memory.insert m a v) x = if x = a then some v else Memory.lookup m x := by
  induction m with
  | nil => simp [Memory.insert, Memory.lookup, eq_comm]
  | cons c m ih =>
    simp only [Memory.insert]
    split_ifs with h1 h2 h3 <;> simp only [Memory.lookup, ih] <;> split_ifs <;> first | rfl | omega

theorem Memory.mem_insert {m : List Host.Cell} {a : Nat} {v : Byte} {c : Host.Cell}
    (h : c ∈ Memory.insert m a v) : c = (a, v) ∨ c ∈ m := by
  induction m with
  | nil => simpa [Memory.insert] using h
  | cons c' m ih =>
    simp only [Memory.insert] at h
    split_ifs at h
    · simpa using h
    · rcases List.mem_cons.1 h with h | h <;> simp [h]
    · rcases List.mem_cons.1 h with h | h
      · simp [h]
      · rcases ih h with h | h <;> simp [h]

/-- Inserting a byte keeps the canonical form. -/
theorem Memory.insert_wf {m : List Host.Cell} (h : Memory.wf m) (a : Nat) (v : Byte) :
    Memory.wf (Memory.insert m a v) := by
  induction m with
  | nil => simp [Memory.insert]
  | cons c m ih =>
    have hc := List.pairwise_cons.1 h
    simp only [Memory.insert]
    split_ifs with h1 h2
    · refine List.pairwise_cons.2 ⟨fun x hx => ?_, h⟩
      rcases List.mem_cons.1 hx with rfl | hx
      · exact h1
      · exact Nat.lt_trans h1 (hc.1 x hx)
    · exact List.pairwise_cons.2 ⟨fun x hx => h2 ▸ hc.1 x hx, hc.2⟩
    · refine List.pairwise_cons.2 ⟨fun x hx => ?_, ih hc.2⟩
      rcases Memory.mem_insert hx with rfl | hx
      · simpa using by omega
      · exact hc.1 x hx

/-! ## One byte -/

theorem State.byte_setByte (s : State) (a x : Nat) (v : Byte) :
    (s.setByte a v).byte x = if x = a then v else s.byte x := by
  simp only [State.byte, State.setByte_mem, State.setByte_epoch, Memory.lookup_insert]
  split_ifs <;> rfl

@[simp] theorem State.byte_setByte_same (s : State) (a : Nat) (v : Byte) : (s.setByte a v).byte a = v := by
  simp [State.byte_setByte]

theorem State.byte_setByte_other (s : State) {a x : Nat} (h : x ≠ a) (v : Byte) :
    (s.setByte a v).byte x = s.byte x := by
  simp [State.byte_setByte, h]

/-- The bytes depend on the memory and the reset count only. -/
theorem State.byte_congr {s t : State} (hm : t.mem = s.mem) (he : t.epoch = s.epoch) (a : Nat) : t.byte a = s.byte a := by
  simp [State.byte, hm, he]

/-! ## `MemWrite` (R32) -/

/-- A memory write changes the memory field and nothing else. -/
theorem State.memWrite_frame (k addr v : Nat) (s : State) :
    ∃ m, s.memWrite addr k v = { s with mem := m } := by
  induction k generalizing s addr v with
  | zero => exact ⟨s.mem, rfl⟩
  | succ k ih =>
    obtain ⟨m, hm⟩ := ih (addr + 1) (v / 256) (s.setByte addr (BitVec.ofNat 8 v))
    exact ⟨m, by simp only [State.memWrite, hm]; rfl⟩

/-- `MemWrite(addr, k, v)` stores byte j of `v` at `addr + j` for j < k and changes no other byte (R32). -/
theorem State.byte_memWrite (k addr v : Nat) (s : State) (x : Nat) :
    (s.memWrite addr k v).byte x =
      if addr ≤ x ∧ x < addr + k then BitVec.ofNat 8 (v / 256 ^ (x - addr)) else s.byte x := by
  induction k generalizing s addr v with
  | zero => simp [State.memWrite, show ¬ (addr ≤ x ∧ x < addr) by omega]
  | succ k ih =>
    rw [State.memWrite, ih]
    by_cases h : addr + 1 ≤ x ∧ x < addr + 1 + k
    · rw [if_pos h, if_pos (by omega), Nat.div_div_eq_div_mul, ← Nat.pow_succ',
        show (x - (addr + 1)).succ = x - addr by omega]
    · rw [if_neg h, State.byte_setByte]
      by_cases hx : x = addr
      · subst hx; simp
      · rw [if_neg hx, if_neg (by omega)]

theorem State.byte_memWrite_outside {k addr : Nat} (v : Nat) (s : State) {x : Nat} (h : x < addr ∨ addr + k ≤ x) :
    (s.memWrite addr k v).byte x = s.byte x := by
  rw [State.byte_memWrite, if_neg (by omega)]

theorem State.memWrite_wf {k addr v : Nat} {s : State} (h : Memory.wf s.mem) : Memory.wf (s.memWrite addr k v).mem := by
  induction k generalizing s addr v with
  | zero => exact h
  | succ k ih => exact ih (s := s.setByte addr (BitVec.ofNat 8 v)) (Memory.insert_wf h _ _)

/-- Every listed address was listed before or is one of the k written. -/
theorem State.mem_memWrite {k addr v : Nat} {s : State} {c : Host.Cell} (h : c ∈ (s.memWrite addr k v).mem) :
    c ∈ s.mem ∨ addr ≤ c.1 ∧ c.1 < addr + k := by
  induction k generalizing s addr v with
  | zero => exact .inl h
  | succ k ih =>
    rcases ih (s := s.setByte addr (BitVec.ofNat 8 v)) h with h | h
    · rcases Memory.mem_insert h with rfl | h
      · exact .inr ⟨Nat.le_refl _, by simp⟩
      · exact .inl h
    · exact .inr (by omega)

/-! ## `MemRead` (R31) -/

theorem State.memRead_lt (s : State) (addr k : Nat) : s.memRead addr k < 256 ^ k := by
  induction k generalizing addr with
  | zero => simp [State.memRead]
  | succ k ih =>
    have h1 := ih (addr + 1)
    have h2 := (s.byte addr).isLt
    rw [State.memRead, Nat.pow_succ]
    omega

/-- A read depends on the bytes it covers only. -/
theorem State.memRead_congr {s t : State} {addr k : Nat} (h : ∀ x, addr ≤ x → x < addr + k → t.byte x = s.byte x) :
    t.memRead addr k = s.memRead addr k := by
  induction k generalizing addr with
  | zero => rfl
  | succ k ih =>
    rw [State.memRead, State.memRead, h addr (Nat.le_refl _) (by omega), ih fun x h1 h2 => h x (by omega) (by omega)]

/-- Byte j of what is read is the byte at `addr + j`. -/
theorem State.memRead_byte (s : State) {addr k j : Nat} (h : j < k) :
    BitVec.ofNat 8 (s.memRead addr k / 256 ^ j) = s.byte (addr + j) := by
  induction k generalizing addr j with
  | zero => omega
  | succ k ih =>
    have hb := (s.byte addr).isLt
    cases j with
    | zero =>
      apply BitVec.eq_of_toNat_eq
      rw [BitVec.toNat_ofNat, State.memRead, Nat.add_zero, Nat.pow_zero, Nat.div_one, Nat.add_mul_mod_self_left]
      exact Nat.mod_eq_of_lt hb
    | succ j =>
      rw [Nat.pow_succ', ← Nat.div_div_eq_div_mul, State.memRead,
        show ((s.byte addr).toNat + 256 * s.memRead (addr + 1) k) / 256 = s.memRead (addr + 1) k by omega,
        ih (by omega), Nat.add_assoc, Nat.add_comm 1 j]

/-! ## Vectors of items (R35, R36) -/

@[simp] theorem State.readItems_length (s : State) (bs base count : Nat) : (s.readItems bs base count).length = count := by
  simp [State.readItems]

theorem State.readItems_getElem (s : State) {bs base count j : Nat} (h : j < (s.readItems bs base count).length) :
    (s.readItems bs base count)[j] = s.memRead (base + j * bs) bs := by
  simp [State.readItems]

theorem State.readItems_lt {s : State} {bs base count v : Nat} (h : v ∈ s.readItems bs base count) : v < 256 ^ bs := by
  obtain ⟨j, -, rfl⟩ := List.mem_map.1 h
  exact s.memRead_lt _ _

/-- Storing items changes the memory field and nothing else. -/
theorem State.writeItems_frame (bs base : Nat) (l : List Nat) (s : State) :
    ∃ m, s.writeItems bs base l = { s with mem := m } := by
  induction l generalizing s base with
  | nil => exact ⟨s.mem, rfl⟩
  | cons v l ih =>
    obtain ⟨m, hm⟩ := State.memWrite_frame bs base v s
    obtain ⟨m', hm'⟩ := ih (base + bs) (s.memWrite base bs v)
    exact ⟨m', by rw [State.writeItems, hm', hm]⟩

theorem State.byte_writeItems_outside {bs base : Nat} {l : List Nat} {s : State} {x : Nat}
    (h : x < base ∨ base + l.length * bs ≤ x) : (s.writeItems bs base l).byte x = s.byte x := by
  induction l generalizing s base with
  | nil => rfl
  | cons v l ih =>
    have hl : (v :: l).length * bs = bs + l.length * bs := by rw [List.length_cons]; ring
    rw [State.writeItems, ih (by omega), State.byte_memWrite_outside v s (by omega)]

theorem State.writeItems_wf {bs base : Nat} {l : List Nat} {s : State} (h : Memory.wf s.mem) :
    Memory.wf (s.writeItems bs base l).mem := by
  induction l generalizing s base with
  | nil => exact h
  | cons v l ih => exact ih (State.memWrite_wf h)

theorem State.mem_writeItems {bs base : Nat} {l : List Nat} {s : State} {c : Host.Cell}
    (h : c ∈ (s.writeItems bs base l).mem) : c ∈ s.mem ∨ base ≤ c.1 ∧ c.1 < base + l.length * bs := by
  induction l generalizing s base with
  | nil => exact .inl h
  | cons v l ih =>
    have hl : (v :: l).length * bs = bs + l.length * bs := by rw [List.length_cons]; ring
    rcases ih h with h | h
    · rcases State.mem_memWrite h with h | h
      · exact .inl h
      · exact .inr (by omega)
    · exact .inr (by omega)

/-- Byte r of item j of a stored list is byte r of its j-th value (R32, R36). -/
theorem State.byte_writeItems {bs base : Nat} {l : List Nat} {s : State} {j r : Nat} (hj : j < l.length) (hr : r < bs) :
    (s.writeItems bs base l).byte (base + j * bs + r) = BitVec.ofNat 8 (l[j] / 256 ^ r) := by
  induction l generalizing s base j with
  | nil => simp at hj
  | cons v l ih =>
    rw [State.writeItems]
    cases j with
    | zero =>
      rw [State.byte_writeItems_outside (by omega), State.byte_memWrite, if_pos (by omega)]
      simp
    | succ j =>
      have := ih (s := s.memWrite base bs v) (base := base + bs) (j := j) (by simpa using hj)
      rw [show base + (j + 1) * bs + r = base + bs + j * bs + r by ring, this]
      simp

/-! ## `WriteVec` (R20, R36): everything it can do -/

/-- `WriteVec` changes memory and the destination's `LEN`, and nothing else. -/
theorem State.writeVec_frame (s : State) (w : Width) (i : DReg) (l : List Nat) :
    ∃ m, s.writeVec w i l = ({ s with mem := m }).setLen i (BitVec.ofNat 16 l.length) := by
  obtain ⟨m, hm⟩ := State.writeItems_frame w.bs (s.base i) l s
  exact ⟨m, by rw [State.writeVec, hm]⟩

theorem State.byte_writeVec_outside {s : State} {w : Width} {i : DReg} {l : List Nat} {x : Nat}
    (h : x < s.base i ∨ s.base i + l.length * w.bs ≤ x) : (s.writeVec w i l).byte x = s.byte x := by
  rw [State.writeVec, State.byte_congr (State.setLen_mem _ _ _) (State.setLen_epoch _ _ _),
    State.byte_writeItems_outside h]

theorem State.byte_writeVec {s : State} {w : Width} {i : DReg} {l : List Nat} {j r : Nat} (hj : j < l.length)
    (hr : r < w.bs) : (s.writeVec w i l).byte (s.base i + j * w.bs + r) = BitVec.ofNat 8 (l[j] / 256 ^ r) := by
  rw [State.writeVec, State.byte_congr (State.setLen_mem _ _ _) (State.setLen_epoch _ _ _),
    State.byte_writeItems hj hr]

theorem State.writeVec_wf {s : State} {w : Width} {i : DReg} {l : List Nat} (h : Memory.wf s.mem) :
    Memory.wf (s.writeVec w i l).mem :=
  State.writeItems_wf h

/-- The canonical form holds at reset. -/
theorem State.afterReset_wf (c : Config) (k : Nat) (p : List HostEvent) : Memory.wf (State.afterReset c k p).mem :=
  List.Pairwise.nil

/-! ## The fields that a store leaves alone -/

variable (s : State)

@[simp] theorem State.memWrite_lambda (addr k v : Nat) : (s.memWrite addr k v).lambda = s.lambda := by
  obtain ⟨m, hm⟩ := State.memWrite_frame k addr v s; rw [hm]
@[simp] theorem State.memWrite_eq (addr k v : Nat) : (s.memWrite addr k v).eq = s.eq := by
  obtain ⟨m, hm⟩ := State.memWrite_frame k addr v s; rw [hm]
@[simp] theorem State.memWrite_err (addr k v : Nat) : (s.memWrite addr k v).err = s.err := by
  obtain ⟨m, hm⟩ := State.memWrite_frame k addr v s; rw [hm]
@[simp] theorem State.memWrite_ecmd (addr k v : Nat) : (s.memWrite addr k v).ecmd = s.ecmd := by
  obtain ⟨m, hm⟩ := State.memWrite_frame k addr v s; rw [hm]
@[simp] theorem State.memWrite_e (addr k v : Nat) : (s.memWrite addr k v).e = s.e := by
  obtain ⟨m, hm⟩ := State.memWrite_frame k addr v s; rw [hm]
@[simp] theorem State.memWrite_d (addr k v : Nat) : (s.memWrite addr k v).d = s.d := by
  obtain ⟨m, hm⟩ := State.memWrite_frame k addr v s; rw [hm]
@[simp] theorem State.memWrite_acc (addr k v : Nat) : (s.memWrite addr k v).acc = s.acc := by
  obtain ⟨m, hm⟩ := State.memWrite_frame k addr v s; rw [hm]
@[simp] theorem State.memWrite_epoch (addr k v : Nat) : (s.memWrite addr k v).epoch = s.epoch := by
  obtain ⟨m, hm⟩ := State.memWrite_frame k addr v s; rw [hm]
@[simp] theorem State.memWrite_config (addr k v : Nat) : (s.memWrite addr k v).config = s.config := by
  obtain ⟨m, hm⟩ := State.memWrite_frame k addr v s; rw [hm]
@[simp] theorem State.memWrite_pending (addr k v : Nat) : (s.memWrite addr k v).pending = s.pending := by
  obtain ⟨m, hm⟩ := State.memWrite_frame k addr v s; rw [hm]
@[simp] theorem State.memWrite_response (addr k v : Nat) : (s.memWrite addr k v).response = s.response := by
  obtain ⟨m, hm⟩ := State.memWrite_frame k addr v s; rw [hm]

@[simp] theorem State.writeItems_lambda (bs base : Nat) (l : List Nat) : (s.writeItems bs base l).lambda = s.lambda := by
  obtain ⟨m, hm⟩ := State.writeItems_frame bs base l s; rw [hm]
@[simp] theorem State.writeItems_eq (bs base : Nat) (l : List Nat) : (s.writeItems bs base l).eq = s.eq := by
  obtain ⟨m, hm⟩ := State.writeItems_frame bs base l s; rw [hm]
@[simp] theorem State.writeItems_err (bs base : Nat) (l : List Nat) : (s.writeItems bs base l).err = s.err := by
  obtain ⟨m, hm⟩ := State.writeItems_frame bs base l s; rw [hm]
@[simp] theorem State.writeItems_ecmd (bs base : Nat) (l : List Nat) : (s.writeItems bs base l).ecmd = s.ecmd := by
  obtain ⟨m, hm⟩ := State.writeItems_frame bs base l s; rw [hm]
@[simp] theorem State.writeItems_e (bs base : Nat) (l : List Nat) : (s.writeItems bs base l).e = s.e := by
  obtain ⟨m, hm⟩ := State.writeItems_frame bs base l s; rw [hm]
@[simp] theorem State.writeItems_d (bs base : Nat) (l : List Nat) : (s.writeItems bs base l).d = s.d := by
  obtain ⟨m, hm⟩ := State.writeItems_frame bs base l s; rw [hm]
@[simp] theorem State.writeItems_acc (bs base : Nat) (l : List Nat) : (s.writeItems bs base l).acc = s.acc := by
  obtain ⟨m, hm⟩ := State.writeItems_frame bs base l s; rw [hm]
@[simp] theorem State.writeItems_epoch (bs base : Nat) (l : List Nat) : (s.writeItems bs base l).epoch = s.epoch := by
  obtain ⟨m, hm⟩ := State.writeItems_frame bs base l s; rw [hm]
@[simp] theorem State.writeItems_config (bs base : Nat) (l : List Nat) : (s.writeItems bs base l).config = s.config := by
  obtain ⟨m, hm⟩ := State.writeItems_frame bs base l s; rw [hm]
@[simp] theorem State.writeItems_pending (bs base : Nat) (l : List Nat) : (s.writeItems bs base l).pending = s.pending := by
  obtain ⟨m, hm⟩ := State.writeItems_frame bs base l s; rw [hm]
@[simp] theorem State.writeItems_response (bs base : Nat) (l : List Nat) : (s.writeItems bs base l).response = s.response := by
  obtain ⟨m, hm⟩ := State.writeItems_frame bs base l s; rw [hm]

@[simp] theorem State.writeVec_lambda (w : Width) (i : DReg) (l : List Nat) : (s.writeVec w i l).lambda = s.lambda := by
  obtain ⟨m, hm⟩ := State.writeVec_frame s w i l; rw [hm]; rfl
@[simp] theorem State.writeVec_eq (w : Width) (i : DReg) (l : List Nat) : (s.writeVec w i l).eq = s.eq := by
  obtain ⟨m, hm⟩ := State.writeVec_frame s w i l; rw [hm]; rfl
@[simp] theorem State.writeVec_err (w : Width) (i : DReg) (l : List Nat) : (s.writeVec w i l).err = s.err := by
  obtain ⟨m, hm⟩ := State.writeVec_frame s w i l; rw [hm]; rfl
@[simp] theorem State.writeVec_ecmd (w : Width) (i : DReg) (l : List Nat) : (s.writeVec w i l).ecmd = s.ecmd := by
  obtain ⟨m, hm⟩ := State.writeVec_frame s w i l; rw [hm]; rfl
@[simp] theorem State.writeVec_e (w : Width) (i : DReg) (l : List Nat) : (s.writeVec w i l).e = s.e := by
  obtain ⟨m, hm⟩ := State.writeVec_frame s w i l; rw [hm]; rfl
@[simp] theorem State.writeVec_acc (w : Width) (i : DReg) (l : List Nat) : (s.writeVec w i l).acc = s.acc := by
  obtain ⟨m, hm⟩ := State.writeVec_frame s w i l; rw [hm]; rfl
@[simp] theorem State.writeVec_epoch (w : Width) (i : DReg) (l : List Nat) : (s.writeVec w i l).epoch = s.epoch := by
  obtain ⟨m, hm⟩ := State.writeVec_frame s w i l; rw [hm]; rfl
@[simp] theorem State.writeVec_config (w : Width) (i : DReg) (l : List Nat) : (s.writeVec w i l).config = s.config := by
  obtain ⟨m, hm⟩ := State.writeVec_frame s w i l; rw [hm]; rfl
@[simp] theorem State.writeVec_pending (w : Width) (i : DReg) (l : List Nat) : (s.writeVec w i l).pending = s.pending := by
  obtain ⟨m, hm⟩ := State.writeVec_frame s w i l; rw [hm]; rfl
@[simp] theorem State.writeVec_response (w : Width) (i : DReg) (l : List Nat) : (s.writeVec w i l).response = s.response := by
  obtain ⟨m, hm⟩ := State.writeVec_frame s w i l; rw [hm]; rfl

/-! ## Reading back what was stored (R32, R36) -/

/-- A number below 256^k is put together from its k bytes. -/
theorem State.memRead_of_bytes {s : State} {addr k v : Nat} (hv : v < 256 ^ k)
    (h : ∀ r < k, s.byte (addr + r) = BitVec.ofNat 8 (v / 256 ^ r)) : s.memRead addr k = v := by
  induction k generalizing addr v with
  | zero => simp only [Nat.pow_zero] at hv; simp only [State.memRead]; omega
  | succ k ih =>
    have h0 := h 0 (by omega)
    have hrec : s.memRead (addr + 1) k = v / 256 := by
      refine ih (by rw [Nat.pow_succ] at hv; omega) fun r hr => ?_
      rw [show addr + 1 + r = addr + (r + 1) by omega, h (r + 1) (by omega), Nat.div_div_eq_div_mul, Nat.pow_succ,
        Nat.mul_comm]
    simp only [State.memRead, hrec]
    rw [show s.byte addr = BitVec.ofNat 8 v by simpa using h0, BitVec.toNat_ofNat]
    omega

/-- `MemRead` after `MemWrite` at the same place (R32). -/
theorem State.memRead_memWrite (s : State) {addr k v : Nat} (hv : v < 256 ^ k) :
    (s.memWrite addr k v).memRead addr k = v :=
  State.memRead_of_bytes hv fun r hr => by
    rw [State.byte_memWrite, if_pos (by omega), show addr + r - addr = r by omega]

/-- Item j after a whole vector is stored (R36). -/
theorem State.memRead_writeVec (s : State) {w : Width} {i : DReg} {l : List Nat} {j : Nat} (hj : j < l.length)
    (hv : l[j] < 256 ^ w.bs) : (s.writeVec w i l).memRead (s.base i + j * w.bs) w.bs = l[j] :=
  State.memRead_of_bytes hv fun _ hr => State.byte_writeVec hj hr

end Sys2Proof.Machine
end

