-- ==== Sys2Proof/Laws/Ops.lean ====
section
/-! SUPPORT. What each shared operation can do, said once: the checks every command makes first, registers, the addressing mode, and
one step. -/

namespace Sys2Proof.Machine

/-! ## Registers -/

theorem State.elem_setElem (s : State) (i j : EReg) (v : Nat) :
    (s.setElem i v).elem j = if j = i then v % 2 ^ 48 else s.elem j := by
  simp only [State.elem, State.setElem_e, Vector.getElem_set]
  by_cases h : j = i
  · subst h; simp
  · rw [if_neg (fun h' => h (Fin.ext h'.symm)), if_neg h]

theorem State.elem_lt (s : State) (i : EReg) : s.elem i < 2 ^ 48 := BitVec.isLt _
theorem State.base_lt (s : State) (i : DReg) : s.base i < 2 ^ 16 := BitVec.isLt _
theorem State.len_lt (s : State) (i : DReg) : s.len i < 2 ^ 16 := BitVec.isLt _

theorem State.base_setBase (s : State) (i j : DReg) (v : Half) :
    (s.setBase i v).base j = if j = i then v.toNat else s.base j := by
  simp only [State.base, State.setBase_d, Vector.getElem_set]
  by_cases h : j = i
  · subst h; simp
  · rw [if_neg (fun h' => h (Fin.ext h'.symm)), if_neg h]

theorem State.len_setBase (s : State) (i j : DReg) (v : Half) : (s.setBase i v).len j = s.len j := by
  simp only [State.len, State.setBase_d, Vector.getElem_set]
  by_cases h : i.val = j.val
  · simp [h]
  · rw [if_neg h]

theorem State.len_setLen (s : State) (i j : DReg) (v : Half) :
    (s.setLen i v).len j = if j = i then v.toNat else s.len j := by
  simp only [State.len, State.setLen_d, Vector.getElem_set]
  by_cases h : j = i
  · subst h; simp
  · rw [if_neg (fun h' => h (Fin.ext h'.symm)), if_neg h]

theorem State.base_setLen (s : State) (i j : DReg) (v : Half) : (s.setLen i v).base j = s.base j := by
  simp only [State.base, State.setLen_d, Vector.getElem_set]
  by_cases h : i.val = j.val
  · simp [h]
  · rw [if_neg h]

theorem State.base_writeVec (s : State) (w : Width) (i j : DReg) (l : List Nat) :
    (s.writeVec w i l).base j = s.base j := by
  obtain ⟨m, hm⟩ := State.writeVec_frame s w i l
  rw [hm, State.base_setLen]; rfl

theorem State.len_writeVec (s : State) (w : Width) (i j : DReg) (l : List Nat) :
    (s.writeVec w i l).len j = if j = i then l.length % 2 ^ 16 else s.len j := by
  obtain ⟨m, hm⟩ := State.writeVec_frame s w i l
  rw [hm, State.len_setLen, BitVec.toNat_ofNat]; rfl

/-- `ReadVec` after `WriteVec` through the same descriptor (R35, R36). -/
theorem State.readVec_writeVec (s : State) {w : Width} {i : DReg} {l : List Nat} (hl : l.length < 2 ^ 16)
    (hv : ∀ v ∈ l, v < 256 ^ w.bs) : (s.writeVec w i l).readVec w i = l := by
  apply List.ext_getElem
  · rw [State.readVec, State.readItems_length, State.len_writeVec, if_pos rfl, Nat.mod_eq_of_lt hl]
  · intro j h1 h2
    simp only [State.readVec, State.base_writeVec]
    rw [State.readItems_getElem]
    exact State.memRead_writeVec s h2 (hv _ (List.getElem_mem h2))

/-! ## The checks of R52 -/

@[simp] theorem whenRunning_of_running {s : State} (h : s.err = 0) (k : State) : whenRunning s k = k := if_pos h

@[simp] theorem whenRunning_of_faulted {s : State} (h : s.err ≠ 0) (k : State) :
    whenRunning s k = s.respond faultedCode 0 := if_neg h

theorem whenConfigured_of_ready {s : State} {w : Width} (he : s.err = 0) (hl : s.lambda = some w) (i : Instr)
    (k : Width → State) : whenConfigured i s k = k w := by
  rw [whenConfigured, whenRunning_of_running he, hl]

theorem whenConfigured_of_unset {s : State} (he : s.err = 0) (hl : s.lambda = none) (i : Instr) (k : Width → State) :
    whenConfigured i s k = s.raiseBy i .unconfigured := by
  rw [whenConfigured, whenRunning_of_running he, hl]

theorem whenConfigured_of_faulted {s : State} (he : s.err ≠ 0) (i : Instr) (k : Width → State) :
    whenConfigured i s k = s.respond faultedCode 0 := whenRunning_of_faulted he _

/-- Everything a command that needs a configuration can do: it is answered `Faulted`, it raises `Unconfigured`, or its rule
executes under the active width. -/
theorem whenConfigured_cases (i : Instr) (s : State) (k : Width → State) :
    (s.err ≠ 0 ∧ whenConfigured i s k = s.respond faultedCode 0) ∨
    (s.err = 0 ∧ s.lambda = none ∧ whenConfigured i s k = s.raiseBy i .unconfigured) ∨
    (∃ w, s.err = 0 ∧ s.lambda = some w ∧ whenConfigured i s k = k w) := by
  by_cases he : s.err = 0
  · cases hl : s.lambda with
    | none => exact .inr (.inl ⟨he, rfl, whenConfigured_of_unset he hl i k⟩)
    | some w => exact .inr (.inr ⟨w, he, rfl, whenConfigured_of_ready he hl i k⟩)
  · exact .inl ⟨he, whenConfigured_of_faulted he i k⟩

/-! ## Descriptor plus index (R88) -/

theorem State.itemAddress_eq_some {s : State} {w : Width} {a : DReg} {idx addr : Nat} :
    s.itemAddress w a idx = some addr ↔
      idx < s.len a ∧ s.base a + idx * w.bs + w.bs ≤ s.config.memBytes ∧ addr = s.base a + idx * w.bs := by
  unfold State.itemAddress
  split_ifs with h1 h2
  · exact ⟨fun h => by simp at h, fun h => absurd h.1 (by omega)⟩
  · exact ⟨fun h => by simp at h, fun h => absurd h.2.1 (by omega)⟩
  · exact ⟨fun h => ⟨by omega, by omega, by simpa using h.symm⟩, fun h => by simp [h.2.2]⟩

/-! ## Parameters -/

theorem Config.memBytes_pos (c : Config) : 1 ≤ c.memBytes := Nat.le_add_left _ _
theorem Config.memBytes_le (c : Config) : c.memBytes ≤ 65536 := by
  have := c.lastAddr.isLt
  unfold Config.memBytes; omega

theorem widthOf_eq_some {lam : Nat} {w : Width} : widthOf lam = some w ↔ lam = w.bs := by
  unfold widthOf
  constructor
  · split_ifs with h1 h2 h3 <;> intro h <;> cases h <;> assumption
  · rintro rfl; cases w <;> rfl

/-! ## One step -/

@[simp] theorem step_idle {s : State} (h : s.pending = []) : step s = .next s := by rw [step, h]

theorem step_event {s : State} {ev : HostEvent} {rest : List HostEvent} (h : s.pending = ev :: rest) :
    step s = execEvent ev { s with pending := rest } := by rw [step, h]

theorem execWord_of_ok {w : Word} {i : Instr} (h : decode w = .ok i) (s : State) : execWord w s = exec i s := by
  rw [execWord, h]

theorem execWord_of_error {w : Word} {x : DecodeError} (h : decode w = .error x) (s : State) :
    execWord w s = .next (illegalCommand w s) := by rw [execWord, h]

/-- Everything a step can do: nothing, a reset, an illegal word, or the decoded command. -/
theorem step_cases (s : State) :
    (s.pending = [] ∧ step s = .next s) ∨
    (∃ rest, s.pending = .reset :: rest ∧ step s = .next { s with pending := rest }.resetUnit) ∨
    (∃ w rest x, s.pending = .command w :: rest ∧ decode w = .error x ∧
      step s = .next (illegalCommand w { s with pending := rest })) ∨
    (∃ w rest i, s.pending = .command w :: rest ∧ decode w = .ok i ∧ step s = exec i { s with pending := rest }) := by
  match h : s.pending with
  | [] => exact .inl ⟨rfl, step_idle h⟩
  | .reset :: rest => exact .inr (.inl ⟨rest, rfl, step_event h⟩)
  | .command w :: rest =>
    match hd : decode w with
    | .error x => exact .inr (.inr (.inl ⟨w, rest, x, rfl, hd, (step_event h).trans (execWord_of_error hd _)⟩))
    | .ok i => exact .inr (.inr (.inr ⟨w, rest, i, rfl, hd, (step_event h).trans (execWord_of_ok hd _)⟩))

end Sys2Proof.Machine
end

