-- ==== Sys2Proof/Laws/PerInstr.lean ====
section
/-! SUPPORT. The family of per-command lemmas: the word of every command is selected by the row of the opcode map that has its
mnemonic (spec/30_encoding.md R50). -/

namespace Sys2Proof.Laws

/-! ## Words as numbers and under a mask -/

/-- A word put together from fields, as a number. -/
theorem toNat_append {m n : Nat} (x : BitVec m) (y : BitVec n) : (x ++ y).toNat = x.toNat * 2 ^ n + y.toNat := by
  rw [BitVec.toNat_append, ← Nat.shiftLeft_add_eq_or_of_lt y.isLt, Nat.shiftLeft_eq]

@[simp] theorem regBits_toNat (r : Fin 16) : (regBits r).toNat = r.val := rfl

/-- A mask acts on the fields of a word one by one. -/
theorem and_append {m n : Nat} (x p : BitVec m) (y q : BitVec n) : (x ++ y) &&& (p ++ q) = (x &&& p) ++ (y &&& q) :=
  BitVec.and_append

theorem and_ones4 (x : BitVec 4) : x &&& 0xF#4 = x := BitVec.and_allOnes
theorem and_ones8 (x : BitVec 8) : x &&& 0xFF#8 = x := BitVec.and_allOnes
theorem and_ones12 (x : BitVec 12) : x &&& 0xFFF#12 = x := BitVec.and_allOnes
theorem and_ones16 (x : BitVec 16) : x &&& 0xFFFF#16 = x := BitVec.and_allOnes
theorem and_ones20 (x : BitVec 20) : x &&& 0xFFFFF#20 = x := BitVec.and_allOnes
theorem and_ones24 (x : BitVec 24) : x &&& 0xFFFFFF#24 = x := BitVec.and_allOnes

/-! ## The word of each format under the mask of its rows is the row's pattern (R48, R50) -/

theorem encodeZ_mask (op : BitVec 8) : encodeZ op &&& 0xFFFFFFFF#32 = op ++ 0#24 := BitVec.and_allOnes

theorem encodeMR_mask (op : BitVec 8) (v : Half) : encodeM op v 0 &&& 0xFF0000FF#32 = op ++ 0#24 := by
  rw [show 0xFF0000FF#32 = 0xFF#8 ++ 0#16 ++ 0xFF#8 from rfl, encodeM, and_append, and_append, and_ones8]
  apply BitVec.eq_of_toNat_eq
  rw [toNat_append, toNat_append, toNat_append]
  simp
  omega

theorem encodeC_mask (op : BitVec 8) (v : Half) : encodeC op v &&& 0xFFFF0000#32 = op ++ 0#24 := by
  rw [show 0xFFFF0000#32 = 0xFF#8 ++ 0xFF#8 ++ 0#16 from rfl, encodeC, and_append, and_append, and_ones8]
  apply BitVec.eq_of_toNat_eq
  rw [toNat_append, toNat_append, toNat_append]
  simp
  omega

theorem encodeM_mask (op : BitVec 8) (v : Half) (x : Byte) : encodeM op v x &&& 0xFF000000#32 = op ++ 0#24 := by
  rw [show 0xFF000000#32 = 0xFF#8 ++ 0#16 ++ 0#8 from rfl, encodeM, and_append, and_append, and_ones8]
  apply BitVec.eq_of_toNat_eq
  rw [toNat_append, toNat_append, toNat_append]
  simp
  omega

theorem encodeR1_mask (op : BitVec 8) (d : Fin 16) : encodeR1 op d &&& 0xFF0FFFFF#32 = op ++ 0#24 := by
  rw [show 0xFF0FFFFF#32 = 0xFF#8 ++ 0#4 ++ 0xFFFFF#20 from rfl, encodeR1, and_append, and_append, and_ones8, and_ones20]
  apply BitVec.eq_of_toNat_eq
  rw [toNat_append, toNat_append, toNat_append]
  simp
  omega

theorem encodeR2_mask (op : BitVec 8) (d a : Fin 16) : encodeR2 op d a &&& 0xFF00FFFF#32 = op ++ 0#24 := by
  rw [show 0xFF00FFFF#32 = 0xFF#8 ++ 0#4 ++ 0#4 ++ 0xFFFF#16 from rfl, encodeR2, and_append, and_append, and_append, and_ones8, and_ones16]
  apply BitVec.eq_of_toNat_eq
  rw [toNat_append, toNat_append, toNat_append, toNat_append]
  simp
  omega

theorem encodeR3_mask (op : BitVec 8) (d a b : Fin 16) : encodeR3 op d a b &&& 0xFF000FFF#32 = op ++ 0#24 := by
  rw [show 0xFF000FFF#32 = 0xFF#8 ++ 0#4 ++ 0#4 ++ 0#4 ++ 0xFFF#12 from rfl, encodeR3, and_append, and_append, and_append, and_append, and_ones8, and_ones12]
  apply BitVec.eq_of_toNat_eq
  rw [toNat_append, toNat_append, toNat_append, toNat_append, toNat_append]
  simp
  omega

theorem encodeRAB_mask (op : BitVec 8) (a b : Fin 16) : encodeRAB op a b &&& 0xFFF00FFF#32 = op ++ 0#24 := by
  rw [show 0xFFF00FFF#32 = 0xFF#8 ++ 0xF#4 ++ 0#4 ++ 0#4 ++ 0xFFF#12 from rfl, encodeRAB, and_append, and_append, and_append, and_append, and_ones8, and_ones4, and_ones12]
  apply BitVec.eq_of_toNat_eq
  rw [toNat_append, toNat_append, toNat_append, toNat_append, toNat_append]
  simp
  omega

theorem encodeI_mask (op : BitVec 8) (d : Fin 16) (v : Half) : encodeI op d v &&& 0xFF0F0000#32 = op ++ 0#24 := by
  rw [show 0xFF0F0000#32 = 0xFF#8 ++ 0#4 ++ 0xF#4 ++ 0#16 from rfl, encodeI, and_append, and_append, and_append, and_ones8, and_ones4]
  apply BitVec.eq_of_toNat_eq
  rw [toNat_append, toNat_append, toNat_append, toNat_append]
  simp
  omega

theorem encodeIX_mask (op : BitVec 8) (d a : Fin 16) (v : Half) : encodeIX op d a v &&& 0xFF000000#32 = op ++ 0#24 := by
  rw [show 0xFF000000#32 = 0xFF#8 ++ 0#4 ++ 0#4 ++ 0#16 from rfl, encodeIX, and_append, and_append, and_append, and_ones8]
  apply BitVec.eq_of_toNat_eq
  rw [toNat_append, toNat_append, toNat_append, toNat_append]
  simp
  omega

theorem encodeI8_mask (op : BitVec 8) (d : Fin 16) (x : Byte) : encodeI8 op d x &&& 0xFF0FFF00#32 = op ++ 0#24 := by
  rw [show 0xFF0FFF00#32 = 0xFF#8 ++ 0#4 ++ 0xFFF#12 ++ 0#8 from rfl, encodeI8, and_append, and_append, and_append, and_ones8, and_ones12]
  apply BitVec.eq_of_toNat_eq
  rw [toNat_append, toNat_append, toNat_append, toNat_append]
  simp
  omega

/-! ## One lemma per command -/

/-- The word of the command is selected by a row of the opcode map that bears the command's mnemonic (R50). -/
def EncodeSelectsRow.Statement (i : Instr) : Prop :=
  ∃ r ∈ opcodeRows, r.mnemonic = i.mnemonic ∧ r.selects (encode i) = true

theorem selects_of_mask {r : OpcodeRow} {w p : Word} (h : w &&& r.mask = p) (hp : r.pattern = p) : r.selects w = true := by
  simp [OpcodeRow.selects, h, hp]

theorem EncodeSelectsRow.nop : EncodeSelectsRow.Statement .nop :=
  ⟨⟨"NOP", 0x00000000#32, 0xFFFFFFFF#32, false⟩, by decide, rfl, selects_of_mask (encodeZ_mask 0x00) rfl⟩
theorem EncodeSelectsRow.cfg (lam : Half) : EncodeSelectsRow.Statement (.cfg lam) :=
  ⟨⟨"CFG", 0x01000000#32, 0xFFFF0000#32, false⟩, by decide, rfl, selects_of_mask (encodeC_mask 0x01 lam) rfl⟩
theorem EncodeSelectsRow.stat : EncodeSelectsRow.Statement .stat :=
  ⟨⟨"STAT", 0x02000000#32, 0xFFFFFFFF#32, false⟩, by decide, rfl, selects_of_mask (encodeZ_mask 0x02) rfl⟩
theorem EncodeSelectsRow.rdecmd : EncodeSelectsRow.Statement .rdecmd :=
  ⟨⟨"RDECMD", 0x03000000#32, 0xFFFFFFFF#32, false⟩, by decide, rfl, selects_of_mask (encodeZ_mask 0x03) rfl⟩
theorem EncodeSelectsRow.clrerr : EncodeSelectsRow.Statement .clrerr :=
  ⟨⟨"CLRERR", 0x04000000#32, 0xFFFFFFFF#32, false⟩, by decide, rfl, selects_of_mask (encodeZ_mask 0x04) rfl⟩
theorem EncodeSelectsRow.mwb (addr : Half) (imm : Byte) : EncodeSelectsRow.Statement (.mwb addr imm) :=
  ⟨⟨"MWB", 0x08000000#32, 0xFF000000#32, false⟩, by decide, rfl, selects_of_mask (encodeM_mask 0x08 addr imm) rfl⟩
theorem EncodeSelectsRow.mrb (addr : Half) : EncodeSelectsRow.Statement (.mrb addr) :=
  ⟨⟨"MRB", 0x09000000#32, 0xFF0000FF#32, false⟩, by decide, rfl, selects_of_mask (encodeMR_mask 0x09 addr) rfl⟩
theorem EncodeSelectsRow.dbase (d : DReg) (imm : Half) : EncodeSelectsRow.Statement (.dbase d imm) :=
  ⟨⟨"DBASE", 0x0A000000#32, 0xFF0F0000#32, false⟩, by decide, rfl, selects_of_mask (encodeI_mask 0x0A d imm) rfl⟩
theorem EncodeSelectsRow.dlen (d : DReg) (imm : Half) : EncodeSelectsRow.Statement (.dlen d imm) :=
  ⟨⟨"DLEN", 0x0B000000#32, 0xFF0F0000#32, false⟩, by decide, rfl, selects_of_mask (encodeI_mask 0x0B d imm) rfl⟩
theorem EncodeSelectsRow.dget (d : DReg) : EncodeSelectsRow.Statement (.dget d) :=
  ⟨⟨"DGET", 0x0C000000#32, 0xFF0FFFFF#32, false⟩, by decide, rfl, selects_of_mask (encodeR1_mask 0x0C d) rfl⟩
theorem EncodeSelectsRow.eli (d : EReg) (imm : Half) : EncodeSelectsRow.Statement (.eli d imm) :=
  ⟨⟨"ELI", 0x10000000#32, 0xFF0F0000#32, true⟩, by decide, rfl, selects_of_mask (encodeI_mask 0x10 d imm) rfl⟩
theorem EncodeSelectsRow.elis (d : EReg) (imm : Half) : EncodeSelectsRow.Statement (.elis d imm) :=
  ⟨⟨"ELIS", 0x11000000#32, 0xFF0F0000#32, true⟩, by decide, rfl, selects_of_mask (encodeI_mask 0x11 d imm) rfl⟩
theorem EncodeSelectsRow.eget (d : EReg) : EncodeSelectsRow.Statement (.eget d) :=
  ⟨⟨"EGET", 0x12000000#32, 0xFF0FFFFF#32, true⟩, by decide, rfl, selects_of_mask (encodeR1_mask 0x12 d) rfl⟩
theorem EncodeSelectsRow.emov (d : EReg) (a : EReg) : EncodeSelectsRow.Statement (.emov d a) :=
  ⟨⟨"EMOV", 0x13000000#32, 0xFF00FFFF#32, true⟩, by decide, rfl, selects_of_mask (encodeR2_mask 0x13 d a) rfl⟩
theorem EncodeSelectsRow.eadd (d : EReg) (a : EReg) (b : EReg) : EncodeSelectsRow.Statement (.eadd d a b) :=
  ⟨⟨"EADD", 0x14000000#32, 0xFF000FFF#32, true⟩, by decide, rfl, selects_of_mask (encodeR3_mask 0x14 d a b) rfl⟩
theorem EncodeSelectsRow.emul (d : EReg) (a : EReg) (b : EReg) : EncodeSelectsRow.Statement (.emul d a b) :=
  ⟨⟨"EMUL", 0x15000000#32, 0xFF000FFF#32, true⟩, by decide, rfl, selects_of_mask (encodeR3_mask 0x15 d a b) rfl⟩
theorem EncodeSelectsRow.einv (d : EReg) (a : EReg) : EncodeSelectsRow.Statement (.einv d a) :=
  ⟨⟨"EINV", 0x16000000#32, 0xFF00FFFF#32, true⟩, by decide, rfl, selects_of_mask (encodeR2_mask 0x16 d a) rfl⟩
theorem EncodeSelectsRow.ecmp (a : EReg) (b : EReg) : EncodeSelectsRow.Statement (.ecmp a b) :=
  ⟨⟨"ECMP", 0x17000000#32, 0xFFF00FFF#32, true⟩, by decide, rfl, selects_of_mask (encodeRAB_mask 0x17 a b) rfl⟩
theorem EncodeSelectsRow.eld (d : EReg) (a : DReg) (idx : Half) : EncodeSelectsRow.Statement (.eld d a idx) :=
  ⟨⟨"ELD", 0x18000000#32, 0xFF000000#32, true⟩, by decide, rfl, selects_of_mask (encodeIX_mask 0x18 d a idx) rfl⟩
theorem EncodeSelectsRow.est (d : EReg) (a : DReg) (idx : Half) : EncodeSelectsRow.Statement (.est d a idx) :=
  ⟨⟨"EST", 0x19000000#32, 0xFF000000#32, true⟩, by decide, rfl, selects_of_mask (encodeIX_mask 0x19 d a idx) rfl⟩
theorem EncodeSelectsRow.aclr : EncodeSelectsRow.Statement .aclr :=
  ⟨⟨"ACLR", 0x20000000#32, 0xFFFFFFFF#32, true⟩, by decide, rfl, selects_of_mask (encodeZ_mask 0x20) rfl⟩
theorem EncodeSelectsRow.clmul (a : EReg) (b : EReg) : EncodeSelectsRow.Statement (.clmul a b) :=
  ⟨⟨"CLMUL", 0x21000000#32, 0xFFF00FFF#32, true⟩, by decide, rfl, selects_of_mask (encodeRAB_mask 0x21 a b) rfl⟩
theorem EncodeSelectsRow.clmac (a : EReg) (b : EReg) : EncodeSelectsRow.Statement (.clmac a b) :=
  ⟨⟨"CLMAC", 0x22000000#32, 0xFFF00FFF#32, true⟩, by decide, rfl, selects_of_mask (encodeRAB_mask 0x22 a b) rfl⟩
theorem EncodeSelectsRow.ared (d : EReg) : EncodeSelectsRow.Statement (.ared d) :=
  ⟨⟨"ARED", 0x23000000#32, 0xFF0FFFFF#32, true⟩, by decide, rfl, selects_of_mask (encodeR1_mask 0x23 d) rfl⟩
theorem EncodeSelectsRow.agetl : EncodeSelectsRow.Statement .agetl :=
  ⟨⟨"AGETL", 0x24000000#32, 0xFFFFFFFF#32, true⟩, by decide, rfl, selects_of_mask (encodeZ_mask 0x24) rfl⟩
theorem EncodeSelectsRow.ageth : EncodeSelectsRow.Statement .ageth :=
  ⟨⟨"AGETH", 0x25000000#32, 0xFFFFFFFF#32, true⟩, by decide, rfl, selects_of_mask (encodeZ_mask 0x25) rfl⟩
theorem EncodeSelectsRow.lifti (d : EReg) (imm : Byte) : EncodeSelectsRow.Statement (.lifti d imm) :=
  ⟨⟨"LIFTI", 0x30000000#32, 0xFF0FFF00#32, true⟩, by decide, rfl, selects_of_mask (encodeI8_mask 0x30 d imm) rfl⟩
theorem EncodeSelectsRow.vlift (d : DReg) (a : DReg) : EncodeSelectsRow.Statement (.vlift d a) :=
  ⟨⟨"VLIFT", 0x31000000#32, 0xFF00FFFF#32, true⟩, by decide, rfl, selects_of_mask (encodeR2_mask 0x31 d a) rfl⟩
theorem EncodeSelectsRow.pgen (d : DReg) (cnt : Half) : EncodeSelectsRow.Statement (.pgen d cnt) :=
  ⟨⟨"PGEN", 0x40000000#32, 0xFF0F0000#32, true⟩, by decide, rfl, selects_of_mask (encodeI_mask 0x40 d cnt) rfl⟩
theorem EncodeSelectsRow.proots (d : DReg) (a : DReg) : EncodeSelectsRow.Statement (.proots d a) :=
  ⟨⟨"PROOTS", 0x41000000#32, 0xFF00FFFF#32, true⟩, by decide, rfl, selects_of_mask (encodeR2_mask 0x41 d a) rfl⟩
theorem EncodeSelectsRow.peval (d : EReg) (a : DReg) (b : EReg) : EncodeSelectsRow.Statement (.peval d a b) :=
  ⟨⟨"PEVAL", 0x42000000#32, 0xFF000FFF#32, true⟩, by decide, rfl, selects_of_mask (encodeR3_mask 0x42 d a b) rfl⟩
theorem EncodeSelectsRow.lpre (d : DReg) (a : DReg) : EncodeSelectsRow.Statement (.lpre d a) :=
  ⟨⟨"LPRE", 0x50000000#32, 0xFF00FFFF#32, true⟩, by decide, rfl, selects_of_mask (encodeR2_mask 0x50 d a) rfl⟩
theorem EncodeSelectsRow.lint (d : DReg) (a : DReg) (b : DReg) : EncodeSelectsRow.Statement (.lint d a b) :=
  ⟨⟨"LINT", 0x51000000#32, 0xFF000FFF#32, true⟩, by decide, rfl, selects_of_mask (encodeR3_mask 0x51 d a b) rfl⟩
theorem EncodeSelectsRow.vadd (d : DReg) (a : DReg) (b : DReg) : EncodeSelectsRow.Statement (.vadd d a b) :=
  ⟨⟨"VADD", 0x60000000#32, 0xFF000FFF#32, true⟩, by decide, rfl, selects_of_mask (encodeR3_mask 0x60 d a b) rfl⟩
theorem EncodeSelectsRow.vscale (d : DReg) (a : DReg) (b : EReg) : EncodeSelectsRow.Statement (.vscale d a b) :=
  ⟨⟨"VSCALE", 0x61000000#32, 0xFF000FFF#32, true⟩, by decide, rfl, selects_of_mask (encodeR3_mask 0x61 d a b) rfl⟩
theorem EncodeSelectsRow.vdot (d : EReg) (a : DReg) (b : DReg) : EncodeSelectsRow.Statement (.vdot d a b) :=
  ⟨⟨"VDOT", 0x62000000#32, 0xFF000FFF#32, true⟩, by decide, rfl, selects_of_mask (encodeR3_mask 0x62 d a b) rfl⟩
theorem EncodeSelectsRow.vconv (d : DReg) (a : DReg) (b : DReg) : EncodeSelectsRow.Statement (.vconv d a b) :=
  ⟨⟨"VCONV", 0x63000000#32, 0xFF000FFF#32, true⟩, by decide, rfl, selects_of_mask (encodeR3_mask 0x63 d a b) rfl⟩

end Sys2Proof.Laws
end

