-- ==== Sys2Proof/Tests/Slice0.lean ====
section
/-! SUPPORT. Tests of the model. Every expected value is from spec/: the words of 95_test_vectors.md section 2, and the results of
its sections 1 and 3 to 9 or of the example of the rule named; none was computed by the model. The theorems named `witness_` give
concrete states and operands that meet the hypotheses of a statement of Certificates/Slice0/Obligations.lean. -/

namespace Sys2Proof.Tests

open Sys2Proof Sys2Proof.Machine

/-! ## Helpers -/

/-- What `f` sees in the state after the command `i`. -/
def see {α : Type} (i : Instr) (s : State) (f : State → α) : Option α :=
  match exec i s with
  | .next t => some (f t)
  | .fault _ => none
  | .refused _ => none

/-- What `f` sees in the state after one step. -/
def seeStep {α : Type} (s : State) (f : State → α) : Option α :=
  match step s with
  | .next t => some (f t)
  | .fault _ => none
  | .refused _ => none

/-- Reset, then configured for width `w`. -/
def ready (w : Width) : State := State.reset.configure w

/-- A configured state with the listed values in `E0`, `E1`, ... -/
def elems (w : Width) (l : List Nat) : State :=
  l.zipIdx.foldl (fun s p => s.setElem (Fin.ofNat 16 p.2) p.1) (ready w)

/-- The state with the vector `l` at `base`, named by descriptor `d`. -/
def withVec (w : Width) (d : DReg) (base : Half) (l : List Nat) (s : State) : State := (s.setBase d base).writeVec w d l

/-- A configured state of an instance with 8 bytes of memory, `D0` = (0, 3) and `D1` = (4, 1). -/
def small (w : Width) : State :=
  ((({ ready w with config := { Config.reference with lastAddr := 7 } }.setLen 0 3).setBase 1 4).setLen 1 1)

/-- The faulted state after the failed `CFG 8` of R61, with the events `p` to come. -/
def faulted (p : List HostEvent) : State := { State.reset with err := 1, ecmd := 0x01000008, pending := p }

/-- The bytes of memory from `a` on. -/
def bytes (a k : Nat) (s : State) : List Byte := (List.range k).map fun j => s.byte (a + j)

/-! ## Which words are well formed (R51; the illegal words of 95_test_vectors.md section 2) -/

/-- The word is no command, for the reason `x`; both the map of R50 and the decoder say so. -/
def isIllegal (w : Word) (x : DecodeError) : Bool := !legalWord w && decide (decode w = .error x)

theorem test_illegal_formatZ : isIllegal 0x00000001 .mustBeZero ∧ isIllegal 0x04100000 .mustBeZero := by decide
theorem test_illegal_formatC : isIllegal 0x01010004 .mustBeZero = true := by decide
theorem test_illegal_formatM : isIllegal 0x09010001 .mustBeZero = true := by decide
theorem test_illegal_formatR1 : isIllegal 0x0C000001 .mustBeZero ∧ isIllegal 0x12010000 .mustBeZero := by decide
theorem test_illegal_formatR2 : isIllegal 0x13001000 .mustBeZero = true := by decide
theorem test_illegal_formatR3 : isIllegal 0x14000001 .mustBeZero ∧ isIllegal 0x15000800 .mustBeZero := by decide
theorem test_illegal_formatRAB : isIllegal 0x17101000 .mustBeZero ∧ isIllegal 0x17001001 .mustBeZero := by decide
theorem test_illegal_formatI : isIllegal 0x0A010000 .mustBeZero ∧ isIllegal 0x10010000 .mustBeZero := by decide
theorem test_illegal_formatI8 : isIllegal 0x30000100 .mustBeZero = true := by decide
theorem test_illegal_opcode : isIllegal 0x05000000 .unassignedOpcode ∧ isIllegal 0x07FFFFFF .unassignedOpcode ∧
    isIllegal 0x0D000000 .unassignedOpcode ∧ isIllegal 0x64000000 .unassignedOpcode ∧
    isIllegal 0xFFFFFFFF .unassignedOpcode := by decide

/-- The constants of R55: v < 2^32 and v < 2^48. -/
theorem test_pseudo_range : Pseudo.wellFormed (.eli32 0 0xFFFFFFFF) ∧ ¬ Pseudo.wellFormed (.eli32 0 0x100000000) ∧
    Pseudo.wellFormed (.eli48 0 0xFFFFFFFFFFFF) ∧ ¬ Pseudo.wellFormed (.eli48 0 0x1000000000000) := by decide

/-- The reference generators are roots of `AES_POLY` (R117), as is the second root listed for n = 32 (G2); 2 is none. -/
theorem test_admissible : admissible Config.reference ∧ isAesRoot .w32 0x621DE75D ∧ ¬ isAesRoot .w32 2 := by decide

/-! ## Words of the spec (95_test_vectors.md section 2), every constructor -/

theorem test_decode_system : decode 0x00000000 = .ok .nop ∧ decode 0x01000006 = .ok (.cfg 6) ∧ decode 0x02000000 = .ok .stat ∧
    decode 0x03000000 = .ok .rdecmd ∧ decode 0x04000000 = .ok .clrerr ∧ decode 0x08ABCD5A = .ok (.mwb 0xABCD 0x5A) ∧
    decode 0x09ABCD00 = .ok (.mrb 0xABCD) ∧ decode 0x0A701234 = .ok (.dbase 7 0x1234) ∧ decode 0x0B700064 = .ok (.dlen 7 100) ∧
    decode 0x0CF00000 = .ok (.dget 15) := by decide

theorem test_decode_element : decode 0x1030BEEF = .ok (.eli 3 0xBEEF) ∧ decode 0x1130BEEF = .ok (.elis 3 0xBEEF) ∧
    decode 0x12900000 = .ok (.eget 9) ∧ decode 0x13120000 = .ok (.emov 1 2) ∧ decode 0x14123000 = .ok (.eadd 1 2 3) ∧
    decode 0x15FED000 = .ok (.emul 15 14 13) ∧ decode 0x16450000 = .ok (.einv 4 5) ∧ decode 0x17067000 = .ok (.ecmp 6 7) ∧
    decode 0x18120304 = .ok (.eld 1 2 772) ∧ decode 0x19120304 = .ok (.est 1 2 772) := by decide

theorem test_decode_accumulator : decode 0x20000000 = .ok .aclr ∧ decode 0x21089000 = .ok (.clmul 8 9) ∧
    decode 0x22089000 = .ok (.clmac 8 9) ∧ decode 0x23A00000 = .ok (.ared 10) ∧ decode 0x24000000 = .ok .agetl ∧
    decode 0x25000000 = .ok .ageth := by decide

theorem test_decode_lifting_polynomial : decode 0x30200053 = .ok (.lifti 2 0x53) ∧ decode 0x31100000 = .ok (.vlift 1 0) ∧
    decode 0x4040012C = .ok (.pgen 4 300) ∧ decode 0x41540000 = .ok (.proots 5 4) ∧ decode 0x42152000 = .ok (.peval 1 5 2) := by
  decide

theorem test_decode_lagrange_vector : decode 0x50640000 = .ok (.lpre 6 4) ∧ decode 0x51768000 = .ok (.lint 7 6 8) ∧
    decode 0x60201000 = .ok (.vadd 2 0 1) ∧ decode 0x6120B000 = .ok (.vscale 2 0 11) ∧ decode 0x62C01000 = .ok (.vdot 12 0 1) ∧
    decode 0x63201000 = .ok (.vconv 2 0 1) := by decide

/-- The extreme legal words of section 2. -/
theorem test_encode_extremes : encode (.cfg 65535) = 0x0100FFFF ∧ encode (.mwb 0xFFFF 0xFF) = 0x08FFFFFF ∧
    encode (.mrb 0xFFFF) = 0x09FFFF00 ∧ encode (.dbase 15 0xFFFF) = 0x0AF0FFFF ∧ encode (.dget 15) = 0x0CF00000 ∧
    encode (.elis 15 0xFFFF) = 0x11F0FFFF ∧ encode (.emul 15 15 15) = 0x15FFF000 ∧ encode (.ecmp 15 15) = 0x170FF000 ∧
    encode (.eld 15 15 65535) = 0x18FFFFFF ∧ encode (.est 15 15 65535) = 0x19FFFFFF ∧ encode (.lifti 15 0xFF) = 0x30F000FF ∧
    encode (.pgen 15 65535) = 0x40F0FFFF ∧ encode (.vconv 15 15 15) = 0x63FFF000 := by decide

/-- The host's two questions, on `ELI E3, 0xBEEF` in a unit that is not configured: the row, and `Unconfigured` (R64). -/
theorem test_table_word : decodeTableWord 32 0x1030BEEF = some (.eli 3 0xBEEF) ∧
    seeStep (State.reset.withFetchWord 32 0x1030BEEF) (fun t => (t.err, t.ecmd)) = some (5, 0x1030BEEF) := by decide

/-! ## The assembler (R54, R55) -/

theorem test_assemble_commands : assembleWords "EMUL E2, E0, E1" = .ok [0x15201000] ∧
    assembleWords "  eld e3 ,D1, 2 ; third item" = .ok [0x18310002] ∧ assembleWords "MWB 0x0100, 0x8D" = .ok [0x0801008D] := by
  decide

theorem test_assemble_pseudos : assembleWords "ELI48 E1, 0xDEADBEEF1234" = .ok [0x1010DEAD, 0x1110BEEF, 0x11101234] ∧
    assembleWords "VACC D2, D0" = .ok [0x60220000] ∧ assembleWords "DSET D1, 0x0100, 3" = .ok [0x0A100100, 0x0B100003] := by
  decide

theorem test_assemble_refuses : assemble "EADD E1, E2" = .error .badOperands ∧ assemble "EADD E16, E0, E0" = .error .badOperand ∧
    assemble "ELI E0, 65536" = .error .badOperands ∧ assemble "LIFTI E0, 256" = .error .badOperands ∧
    assemble "ELI32 E0, 0x100000000" = .error .badOperands ∧ assemble "FOO" = .error .unknownMnemonic := by decide

/-! ## The pure functions (95_test_vectors.md sections 1, 3, 4) -/

theorem test_gfMul : gfMul .w32 0xDEADBEEF 0x12345678 = 0xA0313F8E ∧ gfMul .w40 0xDEADBEEF12 0x123456789A = 0xC017019F27 ∧
    gfMul .w48 0xDEADBEEF1234 0x123456789ABC = 0x2E074FAAF93C := by decide

theorem test_gfInv : gfInv .w32 0xDEADBEEF = 0x236CD880 ∧ gfInv .w40 0xDEADBEEF12 = 0x68D5BEB0D5 ∧
    gfInv .w48 0xDEADBEEF1234 = 0x9F9E545531A4 := by decide

theorem test_reduce : reduce .w32 0xFFFFFFFFFFFFFFFF = 0xFFFFC04B ∧ reducePipeline .w32 0x0C42FDE8DE112DA8 = 0xA0313F8E ∧
    reduce .w48 0x7FFFFFFFFFFFFFFFFFFFFFFF = 0x7FFFFFFFFE15 ∧ reducePipeline .w40 0xFFFFFFFFFFFFFFFFFFFF = 0xFFFFFFFCD7 := by
  decide

/-! ## Family 0x0_ -/

/-- R60. -/
theorem test_nop : see .nop State.reset (fun t => (t.response, t.lambda)) = some (some ⟨0, 0⟩, none) := by decide
/-- R61: `CFG 4`, and again with the active λ: `E0` is cleared. -/
theorem test_cfg : see (.cfg 4) (elems .w32 [5]) (fun t => (t.lambda, t.elem 0)) = some (some .w32, 0) := by decide
/-- R61: `CFG 8`. -/
theorem test_cfg_unsupported : see (.cfg 8) State.reset (fun t => (t.response, t.err, t.ecmd)) =
    some (some ⟨1, 0⟩, 1, 0x01000008) := by decide
/-- R62: λ = 5 and `EQ` = 1. -/
theorem test_stat : see .stat { ready .w40 with eq := true } (fun t => t.response) = some (some ⟨0, 0x0D⟩) := by decide
/-- R62: after a `Singular` error under λ = 4. -/
theorem test_stat_faulted : see .stat { ready .w32 with err := 4 } (fun t => t.response) = some (some ⟨0, 0x44⟩) := by decide
/-- R63. -/
theorem test_rdecmd : see .rdecmd (faulted []) (fun t => t.response) = some (some ⟨0, 0x01000008⟩) := by decide
/-- R65. -/
theorem test_clrerr : see .clrerr (faulted []) (fun t => (t.err, t.ecmd)) = some (0, 0) := by decide
/-- R66. -/
theorem test_mwb : see (.mwb 0x0100 0x8D) State.reset (fun t => t.byte 0x0100) = some 0x8D := by decide
/-- R67. -/
theorem test_mrb : see (.mrb 0x0100) (State.reset.setByte 0x0100 0x8D) (fun t => t.response) = some (some ⟨0, 0x8D⟩) := by decide
/-- R66, R67: the first address past the end of an instance with 8 bytes. -/
theorem test_mwb_mrb_bounds : see (.mwb 8 1) (small .w32) (fun t => t.err) = some 7 ∧
    see (.mrb 8) (small .w32) (fun t => t.err) = some 7 := by decide
/-- R68, R69, R70. -/
theorem test_dbase : see (.dbase 1 0x0100) State.reset (fun t => (t.base 1, t.len 1)) = some (0x0100, 0) := by decide
theorem test_dlen : see (.dlen 1 3) (State.reset.setBase 1 0x0100) (fun t => (t.base 1, t.len 1)) = some (0x0100, 3) := by decide
theorem test_dget : see (.dget 1) ((State.reset.setBase 1 0x0100).setLen 1 3) (fun t => t.response) =
    some (some ⟨0, 0x00030100⟩) := by decide

/-! ## Family 0x1_ -/

/-- R80. -/
theorem test_eli : see (.eli 0 0x1234) (ready .w32) (fun t => t.elem 0) = some 0x1234 := by decide
/-- R81: what passes bit n − 1 is dropped. -/
theorem test_elis_w32 : see (.elis 0 0x0001) (elems .w32 [0xDEADBEEF]) (fun t => t.elem 0) = some 0xBEEF0001 := by decide
theorem test_elis_w40 : see (.elis 1 0xEF12) (elems .w40 [0, 0x12DEADBE]) (fun t => t.elem 1) = some 0xDEADBEEF12 := by decide
/-- R82. -/
theorem test_eget : see (.eget 0) (elems .w32 [0xDEADBEEF]) (fun t => t.response) = some (some ⟨0, 0xDEADBEEF⟩) := by decide
/-- R83. -/
theorem test_emov : see (.emov 3 0) (elems .w32 [0xFFFF]) (fun t => (t.elem 3, t.elem 0)) = some (0xFFFF, 0xFFFF) := by decide
/-- R84, and with the destination a source (95_test_vectors.md section 3). -/
theorem test_eadd : see (.eadd 2 0 1) (elems .w32 [0xDEADBEEF, 0x12345678]) (fun t => t.elem 2) = some 0xCC99E897 := by decide
theorem test_eadd_in_place : see (.eadd 1 1 0) (elems .w32 [0xFFFF, 0xFF]) (fun t => t.elem 1) = some 0xFF00 := by decide
/-- R85. -/
theorem test_emul : see (.emul 2 0 1) (elems .w32 [0xDEADBEEF, 0x12345678]) (fun t => (t.elem 2, t.acc)) =
    some (0xA0313F8E, 0) := by decide
theorem test_emul_w48 : see (.emul 0 0 1) (elems .w48 [0x800000000000, 2]) (fun t => t.elem 0) = some 0x2D := by decide
/-- R86. -/
theorem test_einv : see (.einv 1 0) (elems .w32 [3]) (fun t => t.elem 1) = some 0xFFFFFF84 := by decide
theorem test_einv_zero : see (.einv 1 0) (elems .w32 [0, 9]) (fun t => (t.response, t.err, t.elem 1)) =
    some (some ⟨4, 0⟩, 4, 9) := by decide
/-- R87. -/
theorem test_ecmp : see (.ecmp 0 1) (elems .w32 [7, 7]) (fun t => (t.eq, t.response)) = some (true, some ⟨0, 1⟩) ∧
    see (.ecmp 0 1) (elems .w32 [7, 8]) (fun t => (t.eq, t.response)) = some (false, some ⟨0, 0⟩) := by decide
/-- R88: the third item of `D1` = (0x0100, 3). -/
theorem test_eld : see (.eld 3 1 2) (withVec .w32 1 0x0100 [1, 2, 0xDEADBEEF] (ready .w32)) (fun t => t.elem 3) =
    some 0xDEADBEEF := by decide
/-- R88: the index equal to `LEN`. -/
theorem test_eld_bounds : see (.eld 3 1 3) (withVec .w32 1 0x0100 [1, 2, 0xDEADBEEF] (ready .w32)) (fun t => t.err) = some 7 := by
  decide
/-- R89. -/
theorem test_est : see (.est 1 2 0) (((elems .w40 [0, 0xDEADBEEF12]).setBase 2 0x0200).setLen 2 1) (bytes 0x0200 5) =
    some [0x12, 0xEF, 0xBE, 0xAD, 0xDE] := by decide

/-! ## Family 0x2_ (95_test_vectors.md section 4) -/

theorem test_aclr : see .aclr ((ready .w32).setAcc 5) (fun t => t.acc) = some 0 := by decide
theorem test_clmul : see (.clmul 0 1) ((elems .w48 [0xDEADBEEF1234, 0x123456789ABC]).setAcc 1) (fun t => t.acc) =
    some 0x0C42FDE8BA9DF90617B22EB0 := by decide
theorem test_clmac : see (.clmac 2 3) ((elems .w32 [0, 0, 2, 0x80000000]).setAcc 0x0C42FDE8DE112DA8) (fun t => t.acc) =
    some 0x0C42FDE9DE112DA8 := by decide
theorem test_ared : see (.ared 4) ((ready .w32).setAcc 0x0C42FDE8DE112DA8) (fun t => (t.elem 4, t.acc)) =
    some (0xA0313F8E, 0x0C42FDE8DE112DA8) := by decide
theorem test_agetl : see .agetl ((ready .w48).setAcc 0x0C42FDE8BA9DF90617B22EB0) (fun t => t.response) =
    some (some ⟨0, 0xBA9DF90617B22EB0⟩) := by decide
theorem test_ageth : see .ageth ((ready .w48).setAcc 0x0C42FDE8BA9DF90617B22EB0) (fun t => t.response) =
    some (some ⟨0, 0x0C42FDE8⟩) := by decide

/-! ## Families 0x3_ to 0x6_ (95_test_vectors.md sections 5 to 8) -/

theorem test_lifti : see (.lifti 0 0x53) (ready .w32) (fun t => t.elem 0) = some 0xD8B56DC3 ∧
    see (.lifti 0 0x53) (ready .w48) (fun t => t.elem 0) = some 0x532C7840AD9F := by decide
theorem test_lift_multiplicative : gfMul .w40 (lift Config.reference .w40 0x57) (lift Config.reference .w40 0x83) =
    lift Config.reference .w40 (byteMul 0x57 0x83) ∧ byteMul 0x57 0x83 = 0xC1 := by decide

/-- The four bytes 00 01 02 FF at 0x0010, lifted in place: they are read first. -/
theorem test_vlift_in_place : see (.vlift 1 0)
    ((((ready .w32).writeItems 1 0x0010 [0, 1, 2, 0xFF]).setBase 0 0x0010).setLen 0 4 |>.setBase 1 0x0010)
    (fun t => (t.readVec .w32 1, t.len 1)) = some ([0, 1, 0x40A46AFA, 0x10C3D2F4], 4) := by decide
/-- A destination that ends at the end of memory, and one that passes it. -/
theorem test_vlift_bounds : see (.vlift 1 0) (((ready .w32).setLen 0 4).setBase 1 0xFFF0) (fun t => t.err) = some 0 ∧
    see (.vlift 1 0) (((ready .w32).setLen 0 4).setBase 1 0xFFF4) (fun t => t.err) = some 7 := by decide

theorem test_pgen : see (.pgen 0 8) (ready .w40) (fun t => (t.readVec .w40 0, t.len 0)) =
    some ([2, 4, 8, 0x10, 0x20, 0x40, 0x80, 0x100], 8) := by decide
theorem test_pgen_reduces : (fieldPoints .w32 33).drop 30 = [0x80000000, 0x8D, 0x11A] := by decide

theorem test_proots_in_place : see (.proots 0 0) (withVec .w32 0 0 [2, 4, 8] (ready .w32)) (fun t => t.readVec .w32 0) =
    some [0x40, 0x38, 0x0E, 0x01] := by decide
theorem test_proots_empty : see (.proots 3 2) (ready .w32) (fun t => (t.len 3, t.byte 0)) = some (1, 1) := by decide

theorem test_peval : see (.peval 1 1 0) (withVec .w32 1 0x0040 [0x40, 0x38, 0x0E, 0x01] (elems .w32 [3])) (fun t => t.elem 1) =
    some 0x31 := by decide
theorem test_peval_w40 : horner .w40 [1, 1, 1] 0x8000000000 = 0xC00000015F := by decide

theorem test_lpre : see (.lpre 2 0) ((withVec .w32 0 0 [2, 4, 8] (ready .w32)).setBase 2 0x0100)
    (fun t => (t.readVec .w32 2, t.len 2)) =
    some ([0x66666656, 0x5555557C, 0xF333334E, 0xAAAAAAF8, 0x40000023, 0x8AAAAAE9, 0xCCCCCCAF, 0x1555555F, 0x799999A7], 9) := by
  decide
theorem test_lpre_singular : see (.lpre 2 0) ((withVec .w32 0 0 [2, 4, 2] (ready .w32)).setBase 2 0x0100)
    (fun t => (t.err, t.ecmd, t.len 2)) = some (4, 0x50200000, 0) := by decide

/-- The basis for the points [1, 2] and the values [5, 9]. -/
theorem test_lint : see (.lint 4 2 3)
    ((withVec .w32 3 0x0200 [5, 9] (withVec .w32 2 0x0100 [0xFFFFFF85, 0xFFFFFF84, 0xFFFFFF84, 0xFFFFFF84] (ready .w32))).setBase
      4 0x0300) (fun t => t.readVec .w32 4) = some [1, 4] := by decide
theorem test_lint_input : see (.lint 4 2 3) ((((ready .w32).setLen 2 9).setLen 3 2)) (fun t => (t.err, t.ecmd)) =
    some (3, 0x51423000) := by decide

/-- x and y of section 8 for n = 32, at `D0` and `D1`; `D2` is the destination. -/
def vectors32 : State :=
  (withVec .w32 1 0x0100 [0x12345678, 0x00010000, 0xFFFFFFFF]
    (withVec .w32 0 0 [0xDEADBEEF, 0x00010000, 0xFFFFFFFF] (elems .w32 [0, 0x12345678]))).setBase 2 0x0200

theorem test_vadd : see (.vadd 2 0 1) vectors32 (fun t => t.readVec .w32 2) = some [0xCC99E897, 0, 0] := by decide
theorem test_vadd_mismatch : see (.vadd 2 0 1) (vectors32.setLen 1 2) (fun t => (t.err, t.len 2)) = some (2, 0) := by decide
theorem test_vscale : see (.vscale 2 0 1) vectors32 (fun t => t.readVec .w32 2) =
    some [0xA0313F8E, 0x5671D144, 0xBEC84E38] := by decide
theorem test_vdot : see (.vdot 2 0 1) vectors32 (fun t => (t.acc, t.elem 2)) = some (0x5917A8BC8B4478FD, 0xF5647F3A) := by decide
theorem test_vconv : see (.vconv 2 0 1) vectors32 (fun t => t.readVec .w32 2) =
    some [0xA0313F8E, 0xE8F4D6B5, 0xF6347507, 0, 0x55554039] := by decide
theorem test_vconv_empty : see (.vconv 2 0 1) (vectors32.setLen 1 0) (fun t => (t.err, t.len 2)) = some (0, 0) := by decide

/-! ## Steps, errors and reset (R46, R51, R162, R163, R181) -/

theorem test_step_idle : seeStep State.reset (fun t => decide (t = State.reset)) = some true := by decide
theorem test_step_illegal : seeStep { ready .w32 with pending := [.command 0x05000000] } (fun t => (t.err, t.ecmd, t.pending)) =
    some (6, 0x05000000, []) := by decide
/-- `EADD` with `W[11:0] ≠ 0` while unconfigured reports `IllegalCommand` (R164). -/
theorem test_step_priority : seeStep { State.reset with pending := [.command 0x14000001] } (fun t => t.err) = some 6 := by decide
theorem test_step_faulted : seeStep (faulted [.command 0x00000000]) (fun t => (t.response, t.err, t.ecmd)) =
    some (some ⟨8, 0⟩, 1, 0x01000008) := by decide
theorem test_step_reset : seeStep { (elems .w32 [5]).setByte 3 9 with pending := [.reset] }
    (fun t => (t.lambda, t.elem 0, t.mem, t.epoch)) = some (none, 0, [], 1) := by decide

/-! ## Witnesses: states and operands that meet the hypotheses of the statements, at the boundaries of their clauses -/

theorem ready_ready (w : Width) : (ready w).Ready w := ⟨rfl, rfl⟩

theorem witness_EncodeOfDecode : decode 0x15FED000 = .ok (.emul 15 14 13) := by decide

theorem witness_DecodeAcceptsExactlyTheLegalWords : legalWord 0x170FF000 ∧ decode 0x170FF000 = .ok (.ecmp 15 15) ∧
    ¬ legalWord 0x171FF000 := by decide

theorem witness_AtMostOneRowSelectsAWord : ∃ r ∈ opcodeRows, r.selects 0x19FFFFFF = true := by decide

theorem witness_StepRunsTheDecodedCommand :
    { ready .w32 with pending := [.command 0x15201000, .reset] }.pending = .command 0x15201000 :: [.reset] ∧
    decode 0x15201000 = .ok (.emul 2 0 1) := by decide

theorem witness_IllegalWordRaisesIllegalCommand :
    { ready .w32 with pending := [.command 0x15000800] }.pending = .command 0x15000800 :: [] ∧ (ready .w32).err = 0 ∧
    legalWord 0x15000800 = false ∧ legalWord 0xFFFFFFFF = false := by decide

/-- An illegal word next to `STAT`, and `NOP`. -/
theorem witness_FaultedUnitAnswersFaulted :
    (faulted [.command 0x02000100]).pending = .command 0x02000100 :: [] ∧
    (faulted [.command 0x00000000]).pending = .command 0x00000000 :: [] ∧ (faulted []).err ≠ 0 ∧
    (0x02000100 : Word) ≠ 0x02000000 ∧ (0x00000000 : Word) ≠ 0x02000000 := by decide

theorem witness_EnteringTheFaultedStateWritesOnlyErrAndEcmd :
    ∃ s t, step s = .next t ∧ s.err = 0 ∧ t.err ≠ 0 :=
  ⟨{ State.reset with pending := [.command 0x01000008] }, _, rfl, rfl, by decide⟩

theorem witness_OnlyClrerrAndResetLeaveTheFaultedState :
    (∃ t, step (faulted [.command 0x04000000]) = .next t ∧ t.err = 0) ∧
    (∃ t, step (faulted [.reset]) = .next t ∧ t.err = 0) ∧ (faulted []).err ≠ 0 :=
  ⟨⟨_, rfl, rfl⟩, ⟨_, rfl, rfl⟩, by decide⟩

/-- A response with a code, one with data, one without. -/
theorem witness_ResponsesCarryDataOnlyWhereStated :
    (∃ t, exec (.cfg 8) State.reset = .next t ∧ t.response = some ⟨1, 0⟩ ∧ returnsData (.cfg 8) = false) ∧
    (∃ t, exec .stat (ready .w48) = .next t ∧ t.response = some ⟨0, 6⟩) ∧
    (∃ t, exec .nop (faulted []) = .next t ∧ t.response = some ⟨8, 0⟩) :=
  ⟨⟨_, rfl, by decide, rfl⟩, ⟨_, rfl, by decide⟩, ⟨_, rfl, by decide⟩⟩

theorem witness_UnconfiguredRaisedExactlyByTheMarkedRows :
    (∃ r ∈ opcodeRows, r.selects (encode .aclr) = true ∧ r.needsCfg = true) ∧
    (∃ r ∈ opcodeRows, r.selects (encode (.dget 15)) = true ∧ r.needsCfg = false) ∧
    State.reset.err = 0 ∧ State.reset.lambda = none := by decide

/-- λ = 3, 4, 6, 7; equal and unequal lengths; a basis count that is, and one that is not, the square. -/
theorem witness_LengthAndConfigurationErrorsExactlyWhen :
    see (.cfg 3) State.reset (·.err) = some 1 ∧ see (.cfg 4) State.reset (·.err) = some 0 ∧
    see (.cfg 6) State.reset (·.err) = some 0 ∧ see (.cfg 7) State.reset (·.err) = some 1 ∧
    see (.vadd 2 0 1) (ready .w32) (·.err) = some 0 ∧ see (.vdot 2 0 1) ((ready .w32).setLen 0 1) (·.err) = some 2 ∧
    see (.lint 4 2 3) ((ready .w32).setLen 3 1) (·.err) = some 3 ∧
    see (.lint 4 2 3) (((ready .w32).setLen 3 1).setLen 2 1) (·.err) = some 0 ∧ State.reset.err = 0 := by decide

/-- 8 bytes of memory: an item that ends at the end, one that passes it, an index equal to `LEN`, a vector that passes the end. -/
theorem witness_BoundsRaisedExactlyWhen :
    see (.eld 0 1 0) (small .w32) (·.err) = some 0 ∧ see (.eld 0 1 0) (small .w40) (·.err) = some 7 ∧
    see (.eld 0 1 1) (small .w32) (·.err) = some 7 ∧ see (.peval 0 0 0) (small .w32) (·.err) = some 7 ∧
    see (.pgen 1 1) (small .w32) (·.err) = some 0 ∧ see (.pgen 1 2) (small .w32) (·.err) = some 7 ∧
    (small .w32).err = 0 ∧ (small .w32).lambda = some .w32 := by decide

theorem witness_SingularRaisedExactlyWhen :
    see (.einv 1 0) (ready .w40) (·.err) = some 4 ∧ see (.einv 1 0) (elems .w40 [1]) (·.err) = some 0 ∧
    see (.lpre 2 0) (withVec .w32 0 0 [7, 7] (ready .w32)) (·.err) = some 4 ∧
    see (.lpre 2 0) (withVec .w32 0 0 [7, 0] (ready .w32)) (·.err) = some 0 := by decide

theorem witness_ResetLeavesTheStatedValues : (faulted [.reset]).pending = .reset :: [] := rfl

/-- Each of `LAMBDA`, `EQ` and `ACC` changes somewhere. -/
theorem witness_ControlStateWrittenOnlyByItsCommands :
    see (.cfg 5) State.reset (·.lambda) = some (some .w40) ∧ see (.ecmp 0 0) (ready .w32) (·.eq) = some true ∧
    see (.clmul 0 0) (elems .w32 [2]) (·.acc) = some 4 ∧ State.reset.lambda = none ∧ (ready .w32).eq = false ∧
    (elems .w32 [2]).acc = 0 := by decide

theorem witness_ElementRegistersWrittenOnlyWhereNamed :
    ∃ t, exec (.eli 15 1) (ready .w32) = .next t ∧ t.elem 15 ≠ (ready .w32).elem 15 :=
  ⟨_, rfl, by decide⟩

theorem witness_DescriptorsAndMemoryWrittenOnlyByTheirCommands :
    see (.dbase 3 1) State.reset (·.base 3) = some 1 ∧ see (.pgen 3 1) (ready .w32) (·.len 3) = some 1 ∧
    State.reset.base 3 = 0 ∧ (ready .w32).len 3 = 0 ∧
    see (.mwb 5 1) (State.reset.setByte 5 2) (·.byte 5) = some 1 ∧ (State.reset.setByte 5 2).byte 5 = 2 := by decide

/-- A configured state with memory, and a faulted one. -/
theorem witness_EveryStepKeepsTheInvariant :
    ((elems .w32 [0xFFFFFFFF]).setByte 65535 1).Inv ∧ (faulted [.command 0x04000000]).Inv ∧
    ∃ t, step (faulted [.command 0x04000000]) = .next t :=
  ⟨⟨⟨(by decide : ∀ i : EReg, ((elems .w32 [0xFFFFFFFF]).setByte 65535 1).elem i < 2 ^ Width.w32.n), by decide⟩,
      ⟨by decide, by decide⟩, ⟨by decide, by decide⟩⟩,
    ⟨⟨(by decide : ∀ i : EReg, (faulted []).elem i = 0), rfl, rfl⟩, ⟨by decide, by decide⟩, ⟨by decide, by decide⟩⟩,
    ⟨_, rfl⟩⟩

theorem witness_NopRdecmdClrerrComplete : State.reset.err = 0 := rfl

theorem witness_CfgSelectsTheFieldAndClears :
    State.reset.err = 0 ∧ (4 : Half).toNat = Width.w32.bs ∧ (6 : Half).toNat = Width.w48.bs ∧ (3 : Half) ≠ 4 ∧ (3 : Half) ≠ 5 ∧
    (3 : Half) ≠ 6 := by decide

/-- The last byte of an instance with 8 bytes, and the address past it. -/
theorem witness_HostByteAccessesComplete :
    (small .w32).err = 0 ∧ (7 : Half).toNat < (small .w32).config.memBytes ∧ (small .w32).config.memBytes ≤ (8 : Half).toNat := by
  decide

theorem witness_DbaseAndDlenWriteOneField : State.reset.err = 0 := rfl

theorem witness_DgetReturnsLenAndBase : ((State.reset.setBase 0 0xFFFF).setLen 0 0xFFFF).err = 0 := rfl

theorem witness_EliAndElisBuildAnElement : (elems .w40 [0xFFFFFFFFFF]).Ready .w40 := ⟨rfl, rfl⟩

theorem witness_WideConstantsLoadTheValue : (ready .w40).Ready .w40 ∧ 0xFFFFFFFF < 2 ^ 32 ∧ 0xFFFFFFFFFFFF < 2 ^ 48 :=
  ⟨⟨rfl, rfl⟩, by decide, by decide⟩

theorem witness_EgetReturnsTheElement : (elems .w48 [0xFFFFFFFFFFFF]).Ready .w48 := ⟨rfl, rfl⟩

theorem witness_EmovCopiesAndEaddXors : (elems .w32 [1, 2]).Ready .w32 := ⟨rfl, rfl⟩

theorem witness_EmulLeavesTheProductModuloTheModulus :
    (elems .w32 [0xFFFFFFFF, 0xDEADBEEF]).Ready .w32 ∧ (elems .w32 [0xFFFFFFFF, 0xDEADBEEF]).elem 0 < 2 ^ Width.w32.n ∧
    (elems .w32 [0xFFFFFFFF, 0xDEADBEEF]).elem 1 < 2 ^ Width.w32.n :=
  ⟨⟨rfl, rfl⟩, by decide, by decide⟩

/-- The largest element, and zero. -/
theorem witness_EinvLeavesTheTrueInverse :
    (elems .w40 [0xFFFFFFFFFF, 0]).Ready .w40 ∧ (elems .w40 [0xFFFFFFFFFF, 0]).elem 0 < 2 ^ Width.w40.n ∧
    (elems .w40 [0xFFFFFFFFFF, 0]).elem 0 ≠ 0 ∧ (elems .w40 [0xFFFFFFFFFF, 0]).elem 1 = 0 :=
  ⟨⟨rfl, rfl⟩, by decide, by decide, by decide⟩

theorem witness_EcmpWritesAndReturnsEquality :
    (elems .w32 [7, 7, 8]).Ready .w32 ∧ (elems .w32 [7, 7, 8]).elem 0 = (elems .w32 [7, 7, 8]).elem 1 ∧
    (elems .w32 [7, 7, 8]).elem 0 ≠ (elems .w32 [7, 7, 8]).elem 2 :=
  ⟨⟨rfl, rfl⟩, by decide, by decide⟩

/-- `D1` = (4, 1) in 8 bytes: for n = 32 item 0 ends at the end and index 1 is `LEN`; for n = 40 item 0 passes the end. -/
theorem witness_EldLoadsLittleEndian :
    (small .w32).Ready .w32 ∧ (0 : Half).toNat < (small .w32).len 1 ∧
    (small .w32).base 1 + (0 : Half).toNat * Width.w32.bs + Width.w32.bs = (small .w32).config.memBytes ∧
    (small .w32).len 1 ≤ (1 : Half).toNat ∧ (small .w40).Ready .w40 ∧
    (small .w40).config.memBytes < (small .w40).base 1 + (0 : Half).toNat * Width.w40.bs + Width.w40.bs :=
  ⟨⟨rfl, rfl⟩, by decide, by decide, by decide, ⟨rfl, rfl⟩, by decide⟩

theorem witness_EstStoresExactlyTheItem :
    (small .w32).Ready .w32 ∧ (small .w32).itemAddress .w32 1 0 = some 4 ∧ (small .w32).itemAddress .w32 1 1 = none ∧
    (small .w40).Ready .w40 ∧ (small .w40).itemAddress .w40 1 0 = none :=
  ⟨⟨rfl, rfl⟩, by decide, by decide, ⟨rfl, rfl⟩, by decide⟩

theorem witness_StoreThenLoadGivesTheElementBack :
    ((small .w32).setElem 0 0xDEADBEEF).Ready .w32 ∧ ((small .w32).setElem 0 0xDEADBEEF).elem 0 < 2 ^ Width.w32.n ∧
    (0 : Half).toNat < ((small .w32).setElem 0 0xDEADBEEF).len 1 ∧
    ((small .w32).setElem 0 0xDEADBEEF).base 1 + (0 : Half).toNat * Width.w32.bs + Width.w32.bs ≤
      ((small .w32).setElem 0 0xDEADBEEF).config.memBytes :=
  ⟨⟨rfl, rfl⟩, by decide, by decide, by decide⟩

theorem witness_AccumulatorCommandsWriteOnlyAcc : ((elems .w48 [0xFFFFFFFFFFFF, 3]).setAcc 5).Ready .w48 := ⟨rfl, rfl⟩

theorem witness_AredReducesTheAccumulator :
    ((ready .w48).setAcc (2 ^ 96 - 1)).Ready .w48 ∧ ((ready .w48).setAcc (2 ^ 96 - 1)).acc.toNat < 2 ^ (2 * Width.w48.n) :=
  ⟨⟨rfl, rfl⟩, by decide⟩

theorem witness_AgetlAndAgethReturnTheAccumulator : ((ready .w48).setAcc (2 ^ 95 + 1)).Ready .w48 := ⟨rfl, rfl⟩

theorem witness_ReduceIsTheUniqueRemainder :
    0xFFFFFFFFFFFFFFFF < 2 ^ (2 * Width.w32.n) ∧ 0x100000000 < 2 ^ (2 * Width.w32.n) ∧ 0xFFFFFFFF < 2 ^ Width.w32.n := by decide

theorem witness_IsRemainder : IsRemainder .w32 0x10000008D 0 := ⟨by decide, 1, by decide⟩

theorem witness_PipelineEqualsLongDivision : 0xFFFFFFFFFFFFFFFFFFFF < 2 ^ (2 * Width.w40.n) := by decide

theorem witness_LazyReductionEqualsReducedSum :
    (∀ v ∈ [0xDEADBEEF, 0xFFFFFFFF], v < 2 ^ Width.w32.n) ∧ (∀ v ∈ [0x12345678, 0xFFFFFFFF, 1], v < 2 ^ Width.w32.n) := by decide

theorem witness_FieldLaws : 0xDEADBEEF < 2 ^ Width.w32.n ∧ 0x12345678 < 2 ^ Width.w32.n ∧ 0x0F1E2D3C < 2 ^ Width.w32.n ∧
    0xDEADBEEF ≠ 0 ∧ gfMul .w32 0xDEADBEEF 0 = 0 := by decide

theorem witness_LiftiLeavesTheImageOfTheByte : (ready .w40).Ready .w40 := ⟨rfl, rfl⟩

/-- Source and destination end at the end of memory. -/
theorem witness_VliftLiftsTheByteVector :
    ((((ready .w32).setBase 0 0xFFFC).setLen 0 4).setBase 1 0xFFF0).Ready .w32 ∧
    ((((ready .w32).setBase 0 0xFFFC).setLen 0 4).setBase 1 0xFFF0).InRange 0xFFFC 4 1 ∧
    ((((ready .w32).setBase 0 0xFFFC).setLen 0 4).setBase 1 0xFFF0).DestInRange .w32 1 4 :=
  ⟨⟨rfl, rfl⟩, by decide, by decide⟩

theorem witness_LiftingIsARingEmbedding : isAesRoot .w40 (liftGen Config.reference .w40) ∧ 255 < 256 ∧
    lift Config.reference .w40 (7 ^^^ 7) = 0 := by decide

/-- No element, and the most that fits from address 0. -/
theorem witness_PgenWritesSuccessivePowersOfTwo :
    (ready .w32).Ready .w32 ∧ (ready .w32).DestInRange .w32 0 (0 : Half).toNat ∧
    (ready .w32).DestInRange .w32 0 (16384 : Half).toNat :=
  ⟨⟨rfl, rfl⟩, by decide, by decide⟩

theorem witness_ProotsWritesThePolynomialOfTheRoots :
    vectors32.Ready .w32 ∧ vectors32.VecInRange .w32 0 ∧ vectors32.DestInRange .w32 2 (vectors32.len 0 + 1) :=
  ⟨⟨rfl, rfl⟩, by decide, by decide⟩

theorem witness_PevalLeavesTheValueOfThePolynomial :
    vectors32.Ready .w32 ∧ vectors32.elem 1 < 2 ^ Width.w32.n ∧ vectors32.VecInRange .w32 0 :=
  ⟨⟨rfl, rfl⟩, by decide, by decide⟩

theorem witness_PolynomialFromRootsIsTheProductOfItsFactors :
    (∀ r ∈ [0xDEADBEEF, 5, 5], r < 2 ^ Width.w32.n) ∧ 0xFFFFFFFF < 2 ^ Width.w32.n := by decide

theorem witness_LpreWritesTheLagrangeBasis :
    vectors32.Ready .w32 ∧ vectors32.VecInRange .w32 0 ∧ vectors32.DestInRange .w32 2 (vectors32.len 0 * vectors32.len 0) ∧
    (vectors32.readVec .w32 0).Nodup :=
  ⟨⟨rfl, rfl⟩, by decide, by decide, by decide⟩

theorem witness_LintWritesTheLinearCombination :
    (((ready .w32).setLen 2 9).setLen 3 3).Ready .w32 ∧ (((ready .w32).setLen 2 9).setLen 3 3).len 3 ≠ 0 ∧
    (((ready .w32).setLen 2 9).setLen 3 3).len 2 =
      (((ready .w32).setLen 2 9).setLen 3 3).len 3 * (((ready .w32).setLen 2 9).setLen 3 3).len 3 ∧
    (((ready .w32).setLen 2 9).setLen 3 3).VecInRange .w32 2 ∧ (((ready .w32).setLen 2 9).setLen 3 3).VecInRange .w32 3 ∧
    (((ready .w32).setLen 2 9).setLen 3 3).DestInRange .w32 4 3 :=
  ⟨⟨rfl, rfl⟩, by decide, by decide, by decide, by decide, by decide⟩

theorem witness_InterpolationPassesThroughThePoints :
    (∀ v ∈ [0, 2, 0xFFFFFFFF], v < 2 ^ Width.w32.n) ∧ (∀ v ∈ [5, 5, 9], v < 2 ^ Width.w32.n) ∧ [0, 2, 0xFFFFFFFF].Nodup ∧
    [0, 2, 0xFFFFFFFF].length = [5, 5, 9].length := by decide

theorem witness_VaddWritesThePairwiseSums :
    vectors32.Ready .w32 ∧ vectors32.len 0 = vectors32.len 1 ∧ vectors32.VecInRange .w32 0 ∧ vectors32.VecInRange .w32 1 ∧
    vectors32.DestInRange .w32 2 (vectors32.len 0) :=
  ⟨⟨rfl, rfl⟩, by decide, by decide, by decide, by decide⟩

theorem witness_VscaleWritesTheScaledItems :
    vectors32.Ready .w32 ∧ vectors32.elem 1 < 2 ^ Width.w32.n ∧ vectors32.VecInRange .w32 0 ∧
    vectors32.DestInRange .w32 2 (vectors32.len 0) :=
  ⟨⟨rfl, rfl⟩, by decide, by decide, by decide⟩

theorem witness_VdotLeavesSumAndDotProduct :
    vectors32.Ready .w32 ∧ vectors32.len 0 = vectors32.len 1 ∧ vectors32.VecInRange .w32 0 ∧ vectors32.VecInRange .w32 1 :=
  ⟨⟨rfl, rfl⟩, by decide, by decide, by decide⟩

/-- Two non-empty operands, and an empty one. -/
theorem witness_VconvWritesTheProductPolynomial :
    vectors32.Ready .w32 ∧ vectors32.VecInRange .w32 0 ∧ vectors32.VecInRange .w32 1 ∧ vectors32.VecInRange .w32 5 ∧
    vectors32.len 0 ≠ 0 ∧ vectors32.len 5 = 0 ∧
    vectors32.DestInRange .w32 2 (convLength (vectors32.len 0) (vectors32.len 1)) ∧
    vectors32.DestInRange .w32 2 (convLength (vectors32.len 0) (vectors32.len 5)) :=
  ⟨⟨rfl, rfl⟩, by decide, by decide, by decide, by decide, by decide, by decide, by decide⟩

end Sys2Proof.Tests
end

/-! The state of the unit (spec/10_state.md): who writes what, and the invariant. The one idea is `Effect`:
everything a command can do, said once (`exec_effect`); the write sets and the invariant are then read off its cases. -/

namespace Sys2Proof.Machine

/-! ## Ranges of the datapath's values -/

theorem Width.half_lt (w : Width) (v : Half) : v.toNat < 2 ^ w.n :=
  Nat.lt_of_lt_of_le v.isLt (Nat.pow_le_pow_right (by decide) (by have := Width.n_cases w; omega))

theorem Width.mask_lt (w : Width) : w.mask < 2 ^ w.n := Nat.sub_lt (Nat.two_pow_pos _) Nat.one_pos

/-- A product of two n-bit elements fits the accumulator's range (R21, R96). -/
theorem clmul_lt_acc {w : Width} {a b : Nat} (ha : a < 2 ^ w.n) (hb : b < 2 ^ w.n) : clmul a b < 2 ^ (2 * w.n - 1) :=
  Nat.two_mul w.n ▸ clmul_lt ha hb

/-- The accumulator's range lies in the range of reduction (R99). -/
theorem reduce_lt_of_acc (w : Width) {r : Nat} (h : r < 2 ^ (2 * w.n - 1)) : reduce w r < 2 ^ w.n :=
  reduce_lt w (Nat.lt_of_lt_of_le h (Nat.pow_le_pow_right (by decide) (Nat.sub_le _ _)))

theorem horner_lt (w : Width) {c : List Nat} {x : Nat} (hc : ∀ v ∈ c, v < 2 ^ w.n) (hx : x < 2 ^ w.n) :
    horner w c x < 2 ^ w.n := by
  induction c with
  | nil => exact Nat.two_pow_pos _
  | cons v c ih =>
    exact gfAdd_lt (gfMul_lt w (ih fun y hy => hc y (List.mem_cons_of_mem _ hy)) hx) (hc v List.mem_cons_self)

theorem lazyDot_lt {w : Width} {x y : List Nat} (hx : ∀ v ∈ x, v < 2 ^ w.n) (hy : ∀ v ∈ y, v < 2 ^ w.n) :
    lazyDot x y < 2 ^ (2 * w.n - 1) := by
  refine gfSum_lt fun v hv => ?_
  obtain ⟨j, hj, rfl⟩ := List.mem_iff_getElem.1 hv
  rw [List.getElem_zipWith]
  exact clmul_lt_acc (hx _ (List.getElem_mem _)) (hy _ (List.getElem_mem _))

/-- Each round of R116 keeps the table's entries elements of the field. -/
theorem liftRounds_lt (w : Width) {g : Nat} (hg : g < 2 ^ w.n) (k : Nat) {t : List Nat} {pow : Nat}
    (ht : ∀ v ∈ t, v < 2 ^ w.n) (hp : pow < 2 ^ w.n) : ∀ v ∈ liftRounds w g k t pow, v < 2 ^ w.n := by
  induction k generalizing t pow with
  | zero => exact ht
  | succ k ih =>
    rw [liftRounds, strict_eq]
    refine ih (fun v hv => ?_) (gfMul_lt w hp hg)
    rcases List.mem_append.1 hv with hv | hv
    · exact ht v hv
    · obtain ⟨x, hx, rfl⟩ := List.mem_map.1 hv
      exact gfAdd_lt (ht x hx) hp

theorem lift_lt (c : Config) (w : Width) (b : Nat) : lift c w b < 2 ^ w.n := by
  have htable : ∀ v ∈ liftTable c w, v < 2 ^ w.n := by
    refine liftRounds_lt w (liftGen_lt c w) 7 (fun v hv => ?_) (liftGen_lt c w)
    have := Width.one_lt_pow w
    simp only [List.mem_cons, List.not_mem_nil, or_false] at hv
    omega
  rw [lift, List.getD_eq_getElem?_getD]
  cases h : (liftTable c w)[b]? with
  | none => exact Nat.two_pow_pos _
  | some v => exact htable v (List.mem_of_getElem? h)

/-! ## Lengths of the lists that are stored -/

@[simp] theorem polyFromRoots_length (w : Width) (roots : List Nat) :
    (polyFromRoots w roots).length = roots.length + 1 := by
  have hfold : ∀ p, (roots.foldl (mulByRoot w) p).length = roots.length + p.length := by
    induction roots with
    | nil => simp
    | cons r roots ih => intro p; rw [List.foldl_cons, ih, mulByRoot_length, List.length_cons]; omega
  exact hfold [1]

theorem basisRow_length (w : Width) {x : List Nat} {k : Nat} (hk : k < x.length) : (basisRow w x k).length = x.length := by
  rw [basisRow, strict_eq, List.length_map, basisNumerator, polyFromRoots_length, List.length_eraseIdx_of_lt hk]
  omega

/-- A stored basis set is m rows of m coefficients (R136). -/
@[simp] theorem lagrangeBasis_length (w : Width) (x : List Nat) : (lagrangeBasis w x).length = x.length * x.length := by
  have hrow : ∀ k ∈ List.range x.length, (basisRow w x k).length = x.length :=
    fun k hk => basisRow_length w (List.mem_range.1 hk)
  rw [lagrangeBasis, List.length_flatMap, List.map_congr_left hrow]
  simp

@[simp] theorem State.readVec_length (s : State) (w : Width) (i : DReg) : (s.readVec w i).length = s.len i :=
  s.readItems_length _ _ _

@[simp] theorem State.readBytes_length (s : State) (i : DReg) : (s.readBytes i).length = s.len i :=
  s.readItems_length _ _ _

theorem State.readVec_lt {s : State} {w : Width} {i : DReg} {v : Nat} (h : v ∈ s.readVec w i) : v < 2 ^ w.n :=
  Width.pow_bs w ▸ State.readItems_lt h

/-! ## Registers depend on their own field only -/

theorem State.elem_congr {s t : State} (h : t.e = s.e) (i : EReg) : t.elem i = s.elem i := by rw [State.elem, h]; rfl

theorem State.base_congr {s t : State} (h : t.d = s.d) (i : DReg) : t.base i = s.base i := by rw [State.base, h]; rfl

theorem State.len_congr {s t : State} (h : t.d = s.d) (i : DReg) : t.len i = s.len i := by rw [State.len, h]; rfl

/-! ## Reduced registers, under a configuration and without one -/

theorem State.registersReduced_of_some {s : State} {w : Width} (hl : s.lambda = some w) :
    s.RegistersReduced ↔ (∀ i : EReg, s.elem i < 2 ^ w.n) ∧ s.acc.toNat < 2 ^ (2 * w.n - 1) := by
  rw [State.RegistersReduced, hl]

theorem State.RegistersReduced.elem_lt {s : State} {w : Width} (h : s.RegistersReduced) (hl : s.lambda = some w)
    (i : EReg) : s.elem i < 2 ^ w.n := ((State.registersReduced_of_some hl).1 h).1 i

theorem State.RegistersReduced.acc_lt {s : State} {w : Width} (h : s.RegistersReduced) (hl : s.lambda = some w) :
    s.acc.toNat < 2 ^ (2 * w.n - 1) := ((State.registersReduced_of_some hl).1 h).2

/-! ## The invariant, operation by operation -/

theorem ErrorKind.code_ne_zero (x : ErrorKind) : x.code ≠ 0 := by cases x <;> decide
theorem ErrorKind.code_le (x : ErrorKind) : x.code.toNat ≤ 7 := by cases x <;> decide

theorem State.afterReset_inv (c : Config) (k : Nat) (p : List HostEvent) : (State.afterReset c k p).Inv := by
  refine ⟨⟨fun i => ?_, rfl, rfl⟩, ⟨Nat.zero_le _, fun _ => rfl⟩, State.afterReset_wf c k p,
    fun _ h => absurd h List.not_mem_nil⟩
  simp [State.elem]

namespace State.Inv

variable {s : State}

theorem respond (h : s.Inv) (c : BitVec 4) (x : BitVec 64) : (s.respond c x).Inv := h

theorem ok (h : s.Inv) : s.ok.Inv := h

/-- The code that is latched is 1 to 7, so nothing is asked of `ECMD` (R15, R16, R160). -/
theorem raise (h : s.Inv) (w : Word) (x : ErrorKind) : (s.raise w x).Inv := by
  obtain ⟨hreg, -, hmem⟩ := h
  exact ⟨hreg, ⟨x.code_le, fun hx => absurd hx x.code_ne_zero⟩, hmem⟩

theorem clearError (h : s.Inv) : s.clearError.Inv := by
  obtain ⟨hreg, -, hmem⟩ := h
  exact ⟨hreg, ⟨Nat.zero_le _, fun _ => rfl⟩, hmem⟩

theorem configure (h : s.Inv) (w : Width) : (s.configure w).Inv := by
  obtain ⟨-, herr, hmem⟩ := h
  refine ⟨(State.registersReduced_of_some rfl).2 ⟨fun i => ?_, Nat.two_pow_pos _⟩, herr, hmem⟩
  simp [State.elem]

theorem setBase (h : s.Inv) (i : DReg) (v : Half) : (s.setBase i v).Inv := h

theorem setLen (h : s.Inv) (i : DReg) (v : Half) : (s.setLen i v).Inv := h

theorem setEq {w : Width} (h : s.Inv) (hl : s.lambda = some w) (b : Bool) : ({ s with eq := b } : State).Inv := by
  obtain ⟨hreg, herr, hmem⟩ := h
  exact ⟨(State.registersReduced_of_some (s := { s with eq := b }) hl).2 ⟨hreg.elem_lt hl, hreg.acc_lt hl⟩, herr, hmem⟩

theorem setElem {w : Width} (h : s.Inv) (hl : s.lambda = some w) (d : EReg) {v : Nat} (hv : v < 2 ^ w.n) :
    (s.setElem d v).Inv := by
  obtain ⟨hreg, herr, hmem⟩ := h
  refine ⟨(State.registersReduced_of_some (s := s.setElem d v) hl).2 ⟨fun i => ?_, hreg.acc_lt hl⟩, herr, hmem⟩
  rw [State.elem_setElem]
  split_ifs
  · exact Nat.lt_of_le_of_lt (Nat.mod_le _ _) hv
  · exact hreg.elem_lt hl i

theorem setAcc {w : Width} (h : s.Inv) (hl : s.lambda = some w) {v : Nat} (hv : v < 2 ^ (2 * w.n - 1)) :
    (s.setAcc v).Inv := by
  obtain ⟨hreg, herr, hmem⟩ := h
  refine ⟨(State.registersReduced_of_some (s := s.setAcc v) hl).2 ⟨hreg.elem_lt hl, ?_⟩, herr, hmem⟩
  rw [State.setAcc_acc, BitVec.toNat_ofNat]
  exact Nat.lt_of_le_of_lt (Nat.mod_le _ _) hv

/-- New memory that lists only old addresses and addresses inside the scratchpad keeps the invariant (R30). -/
theorem setMem (h : s.Inv) {m : List Host.Cell} (hwf : Memory.wf m)
    (hm : ∀ c ∈ m, c ∈ s.mem ∨ c.1 < s.config.memBytes) : ({ s with mem := m } : State).Inv := by
  obtain ⟨hreg, herr, -, hin⟩ := h
  exact ⟨hreg, herr, hwf, fun c hc => (hm c hc).elim (hin c) id⟩

theorem memory_wf (h : s.Inv) : Memory.wf s.mem := by
  obtain ⟨-, -, hwf, -⟩ := h
  exact hwf

theorem setByte (h : s.Inv) {a : Nat} (ha : a < s.config.memBytes) (v : Byte) : (s.setByte a v).Inv :=
  h.setMem (Memory.insert_wf h.memory_wf a v) fun c hc => by
    rcases Memory.mem_insert hc with rfl | hc
    · exact .inr ha
    · exact .inl hc

theorem memWrite (h : s.Inv) {addr k : Nat} (hr : addr + k ≤ s.config.memBytes) (v : Nat) : (s.memWrite addr k v).Inv := by
  have hwf : Memory.wf (s.memWrite addr k v).mem := State.memWrite_wf h.memory_wf
  have hin : ∀ c ∈ (s.memWrite addr k v).mem, c ∈ s.mem ∨ c.1 < s.config.memBytes := fun c hc =>
    (State.mem_memWrite hc).imp_right fun hc => by omega
  obtain ⟨m, hm⟩ := State.memWrite_frame k addr v s
  rw [hm] at hwf hin ⊢
  exact h.setMem hwf hin

theorem writeVec (h : s.Inv) {w : Width} {d : DReg} {l : List Nat} (hr : s.DestInRange w d l.length) :
    (s.writeVec w d l).Inv := by
  have hwf : Memory.wf (s.writeVec w d l).mem := State.writeVec_wf h.memory_wf
  have hin : ∀ c ∈ (s.writeVec w d l).mem, c ∈ s.mem ∨ c.1 < s.config.memBytes := fun c hc =>
    (State.mem_writeItems hc).imp_right fun hc => by
      rcases hr with hr | hr
      · rw [hr] at hc; omega
      · omega
  obtain ⟨m, hm⟩ := State.writeVec_frame s w d l
  rw [hm] at hwf hin ⊢
  exact (h.setMem hwf hin).setLen d _

theorem resetUnit : s.resetUnit.Inv := State.afterReset_inv _ _ _

/-- An illegal word is answered `Faulted`, or raises `IllegalCommand` (R51). -/
theorem illegalCommand (h : s.Inv) (w : Word) : (illegalCommand w s).Inv := by
  rw [Machine.illegalCommand, whenRunning]
  split_ifs
  · exact h.raise w _
  · exact h.respond _ _

end State.Inv

/-! ## Everything a command can do -/

/-- The commands that write `ACC` and no element register (R101 to R103). -/
def writesAccOnly : Instr → Bool
  | .aclr => true
  | .clmul _ _ => true
  | .clmac _ _ => true
  | _ => false

/-- `Effect i s t`: the ways in which the command `i` can take `s` to `t`. The command is named as far as the write sets of
10_state.md depend on it; a value written to a register comes with its range, an address with its bound. -/
inductive Effect (i : Instr) (s : State) : State → Prop where
  /-- Only the response is written: a command that returns data, `NOP`, or the answer `Faulted` (R162). -/
  | answered (c : BitVec 4) (x : BitVec 64) : Effect i s (s.respond c x)
  /-- An error is raised (R160). -/
  | raised (x : ErrorKind) : Effect i s (s.raiseBy i x)
  /-- `CLRERR` (R65). -/
  | cleared (hi : i = .clrerr) : Effect i s s.clearError.ok
  /-- `CFG` with a supported λ (R61). -/
  | configured (lam : Half) (w : Width) (hi : i = .cfg lam) : Effect i s (s.configure w).ok
  /-- `DBASE` (R68). -/
  | baseSet (d : DReg) (v : Half) (hi : i = .dbase d v) : Effect i s (s.setBase d v).ok
  /-- `DLEN` (R69). -/
  | lenSet (d : DReg) (v : Half) (hi : i = .dlen d v) : Effect i s (s.setLen d v).ok
  /-- `MWB` (R66). -/
  | byteStored (a : Half) (v : Byte) (hi : i = .mwb a v) (ha : a.toNat < s.config.memBytes) :
      Effect i s (s.setByte a.toNat v).ok
  /-- `EST` (R89). -/
  | itemStored (d : EReg) (a : DReg) (idx : Half) (addr k v : Nat) (hi : i = .est d a idx)
      (hr : addr + k ≤ s.config.memBytes) : Effect i s (s.memWrite addr k v).ok
  /-- `ECMP` (R87). -/
  | flagSet (a b : EReg) (w : Width) (f : Bool) (x : Nat) (hi : i = .ecmp a b) (hl : s.lambda = some w) :
      Effect i s (({ s with eq := f } : State).okData x)
  /-- A command with an element register as its destination, other than `VDOT` (R18). -/
  | elemSet (d : EReg) (w : Width) (v : Nat) (hi : destElem i = some d) (hl : s.lambda = some w)
      (hv : s.RegistersReduced → v < 2 ^ w.n) : Effect i s (s.setElem d v).ok
  /-- `ACLR`, `CLMUL` or `CLMAC` (R101 to R103). -/
  | accSet (w : Width) (v : Nat) (hi : writesAccOnly i = true) (hl : s.lambda = some w)
      (hv : s.RegistersReduced → v < 2 ^ (2 * w.n - 1)) : Effect i s (s.setAcc v).ok
  /-- `VDOT` (R148). -/
  | dotSet (d : EReg) (a b : DReg) (w : Width) (v : Nat) (hi : i = .vdot d a b) (hl : s.lambda = some w)
      (hv : v < 2 ^ (2 * w.n - 1)) : Effect i s ((s.setAcc v).setElem d (reduce w v)).ok
  /-- A command that produces a vector (R20, R36). -/
  | vectorStored (d : DReg) (w : Width) (l : List Nat) (hi : destVec i = some d) (hr : s.DestInRange w d l.length) :
      Effect i s (s.writeVec w d l).ok

namespace Effect

variable {i : Instr} {s t : State}

theorem of_whenRunning {k : State} (h : Effect i s k) : Effect i s (whenRunning s k) := by
  rw [whenRunning]
  split_ifs
  · exact h
  · exact .answered _ _

theorem of_whenConfigured {k : Width → State} (h : ∀ w, s.lambda = some w → Effect i s (k w)) :
    Effect i s (whenConfigured i s k) := by
  rcases whenConfigured_cases i s k with ⟨-, hk⟩ | ⟨-, -, hk⟩ | ⟨w, -, hl, hk⟩ <;> rw [hk]
  · exact .answered _ _
  · exact .raised _
  · exact h w hl

/-- One check of a command's rule: it raises, or the rule goes on (R160, R164). -/
theorem of_check {c : Prop} [Decidable c] {x : ErrorKind} {k : State} (h : ¬ c → Effect i s k) :
    Effect i s (if c then s.raiseBy i x else k) := by
  split_ifs with hc
  · exact .raised _
  · exact h hc

/-- The last check of a command that produces a vector, and the store (R34, R36). -/
theorem of_store {d : DReg} {w : Width} {l : List Nat} {count : Nat} {x : ErrorKind} (hi : destVec i = some d)
    (hcount : l.length = count) :
    Effect i s (if ¬ s.DestInRange w d count then s.raiseBy i x else (s.writeVec w d l).ok) :=
  .of_check fun hd => .vectorStored d w l hi (hcount ▸ not_not.1 hd)

end Effect

/-- Every command answers a next state, and that state is one of its effects. -/
theorem exec_effect (i : Instr) (s : State) : ∃ t, exec i s = .next t ∧ Effect i s t := by
  cases i with
  -- family 0x0_
  | nop => exact ⟨_, rfl, .of_whenRunning (.answered _ _)⟩
  | cfg lam =>
    refine ⟨_, rfl, .of_whenRunning ?_⟩
    split
    · exact .raised _
    · exact .configured lam _ rfl
  | stat => exact ⟨_, rfl, .answered _ _⟩
  | rdecmd => exact ⟨_, rfl, .answered _ _⟩
  | clrerr => exact ⟨_, rfl, .cleared rfl⟩
  | mwb a v => exact ⟨_, rfl, .of_whenRunning (.of_check fun ha => .byteStored a v rfl (Nat.lt_of_not_le ha))⟩
  | mrb a => exact ⟨_, rfl, .of_whenRunning (.of_check fun _ => .answered _ _)⟩
  | dbase d v => exact ⟨_, rfl, .of_whenRunning (.baseSet d v rfl)⟩
  | dlen d v => exact ⟨_, rfl, .of_whenRunning (.lenSet d v rfl)⟩
  | dget d => exact ⟨_, rfl, .of_whenRunning (.answered _ _)⟩
  -- family 0x1_
  | eli d imm => exact ⟨_, rfl, .of_whenConfigured fun w hl => .elemSet d w _ rfl hl fun _ => Width.half_lt w imm⟩
  | elis d imm =>
    exact ⟨_, rfl, .of_whenConfigured fun w hl => .elemSet d w _ rfl hl fun _ => Nat.and_lt_two_pow _ (Width.mask_lt w)⟩
  | eget d => exact ⟨_, rfl, .of_whenConfigured fun _ _ => .answered _ _⟩
  | emov d a => exact ⟨_, rfl, .of_whenConfigured fun w hl => .elemSet d w _ rfl hl fun h => h.elem_lt hl a⟩
  | eadd d a b =>
    exact ⟨_, rfl, .of_whenConfigured fun w hl =>
      .elemSet d w _ rfl hl fun h => gfAdd_lt (h.elem_lt hl a) (h.elem_lt hl b)⟩
  | emul d a b =>
    exact ⟨_, rfl, .of_whenConfigured fun w hl =>
      .elemSet d w _ rfl hl fun h => gfMul_lt w (h.elem_lt hl a) (h.elem_lt hl b)⟩
  | einv d a =>
    exact ⟨_, rfl, .of_whenConfigured fun w hl =>
      .of_check fun _ => .elemSet d w _ rfl hl fun h => gfInv_lt w (h.elem_lt hl a)⟩
  | ecmp a b => exact ⟨_, rfl, .of_whenConfigured fun w hl => .flagSet a b w _ _ rfl hl⟩
  | eld d a idx =>
    refine ⟨_, rfl, .of_whenConfigured fun w hl => ?_⟩
    split
    · exact .raised _
    · exact .elemSet d w _ rfl hl fun _ => Width.pow_bs w ▸ s.memRead_lt _ _
  | est d a idx =>
    refine ⟨_, rfl, .of_whenConfigured fun w hl => ?_⟩
    split
    · exact .raised _
    · next addr ha =>
      obtain ⟨-, hr, haddr⟩ := State.itemAddress_eq_some.1 ha
      exact .itemStored d a idx addr w.bs _ rfl (haddr ▸ hr)
  -- family 0x2_
  | aclr => exact ⟨_, rfl, .of_whenConfigured fun w hl => .accSet w 0 rfl hl fun _ => Nat.two_pow_pos _⟩
  | clmul a b =>
    exact ⟨_, rfl, .of_whenConfigured fun w hl =>
      .accSet w _ rfl hl fun h => clmul_lt_acc (h.elem_lt hl a) (h.elem_lt hl b)⟩
  | clmac a b =>
    exact ⟨_, rfl, .of_whenConfigured fun w hl =>
      .accSet w _ rfl hl fun h => Nat.xor_lt_two_pow (h.acc_lt hl) (clmul_lt_acc (h.elem_lt hl a) (h.elem_lt hl b))⟩
  | ared d =>
    exact ⟨_, rfl, .of_whenConfigured fun w hl =>
      .elemSet d w _ rfl hl fun h => reduce_lt_of_acc w (h.acc_lt hl)⟩
  | agetl => exact ⟨_, rfl, .of_whenConfigured fun _ _ => .answered _ _⟩
  | ageth => exact ⟨_, rfl, .of_whenConfigured fun _ _ => .answered _ _⟩
  -- family 0x3_
  | lifti d imm => exact ⟨_, rfl, .of_whenConfigured fun w hl => .elemSet d w _ rfl hl fun _ => lift_lt _ w _⟩
  | vlift d a =>
    exact ⟨_, rfl, .of_whenConfigured fun _ _ => .of_check fun _ => .of_store rfl (by simp)⟩
  -- family 0x4_
  | pgen d cnt => exact ⟨_, rfl, .of_whenConfigured fun _ _ => .of_store rfl (by simp)⟩
  | proots d a =>
    exact ⟨_, rfl, .of_whenConfigured fun _ _ => .of_check fun _ => .of_store rfl (by simp)⟩
  | peval d a b =>
    exact ⟨_, rfl, .of_whenConfigured fun w hl =>
      .of_check fun _ => .elemSet d w _ rfl hl fun h => horner_lt w (fun _ => State.readVec_lt) (h.elem_lt hl b)⟩
  -- family 0x5_
  | lpre d a =>
    exact ⟨_, rfl, .of_whenConfigured fun w _ =>
      .of_check fun _ => .of_check fun hd => .of_check fun _ =>
        .vectorStored d w _ rfl (by simpa only [lagrangeBasis_length, State.readVec_length] using not_not.1 hd)⟩
  | lint d a b =>
    exact ⟨_, rfl, .of_whenConfigured fun _ _ =>
      .of_check fun _ => .of_check fun _ => .of_check fun _ => .of_store rfl (by simp)⟩
  -- family 0x6_
  | vadd d a b =>
    exact ⟨_, rfl, .of_whenConfigured fun _ _ =>
      .of_check fun hlen => .of_check fun _ => .of_check fun _ => .of_store rfl (by simp [← not_not.1 hlen])⟩
  | vscale d a b =>
    exact ⟨_, rfl, .of_whenConfigured fun _ _ => .of_check fun _ => .of_store rfl (by simp)⟩
  | vdot d a b =>
    exact ⟨_, rfl, .of_whenConfigured fun w hl =>
      .of_check fun _ => .of_check fun _ => .of_check fun _ =>
        .dotSet d a b w _ rfl hl (lazyDot_lt (fun _ => State.readVec_lt) fun _ => State.readVec_lt)⟩
  | vconv d a b =>
    exact ⟨_, rfl, .of_whenConfigured fun _ _ =>
      .of_check fun _ => .of_check fun _ => .of_store rfl (by simp)⟩

/-- The inversion of `exec`: a state that a command leaves is one of its effects. -/
theorem effect_of_exec {i : Instr} {s t : State} (h : exec i s = .next t) : Effect i s t := by
  obtain ⟨u, hu, heff⟩ := exec_effect i s
  obtain rfl : u = t := Host.Outcome.next.inj (hu.symm.trans h)
  exact heff

/-! ## Who writes what, read off the effects -/

namespace Effect

variable {i : Instr} {s t : State}

theorem lambda_written (h : Effect i s t) : t.lambda = s.lambda ∨ ∃ lam, i = .cfg lam := by
  cases h with
  | configured lam w hi => exact .inr ⟨lam, hi⟩
  | _ => exact .inl (by simp)

theorem eq_written (h : Effect i s t) : t.eq = s.eq ∨ (∃ a b, i = .ecmp a b) ∨ ∃ lam, i = .cfg lam := by
  cases h with
  | configured lam w hi => exact .inr (.inr ⟨lam, hi⟩)
  | flagSet a b w f x hi hl => exact .inr (.inl ⟨a, b, hi⟩)
  | _ => exact .inl (by simp)

theorem acc_written (h : Effect i s t) :
    t.acc = s.acc ∨ writesAccOnly i = true ∨ (∃ d a b, i = .vdot d a b) ∨ ∃ lam, i = .cfg lam := by
  cases h with
  | configured lam w hi => exact .inr (.inr (.inr ⟨lam, hi⟩))
  | accSet w v hi hl hv => exact .inr (.inl hi)
  | dotSet d a b w v hi hl hv => exact .inr (.inr (.inl ⟨d, a, b, hi⟩))
  | _ => exact .inl (by simp)

theorem config_eq (h : Effect i s t) : t.config = s.config := by
  cases h <;> simp

theorem elem_written (h : Effect i s t) (j : EReg) :
    t.elem j = s.elem j ∨ destElem i = some j ∨ ∃ lam, i = .cfg lam := by
  cases h with
  | configured lam w hi => exact .inr (.inr ⟨lam, hi⟩)
  | elemSet d w v hi hl hv =>
    by_cases hj : j = d
    · exact .inr (.inl (hj ▸ hi))
    · exact .inl ((s.elem_setElem d j v).trans (if_neg hj))
  | dotSet d a b w v hi hl hv =>
    by_cases hj : j = d
    · exact .inr (.inl (hi ▸ hj ▸ rfl))
    · exact .inl (((s.setAcc v).elem_setElem d j _).trans (if_neg hj))
  | _ => exact .inl (State.elem_congr (by simp) j)

theorem base_written (h : Effect i s t) (j : DReg) : t.base j = s.base j ∨ ∃ v, i = .dbase j v := by
  cases h with
  | baseSet d v hi =>
    by_cases hj : j = d
    · exact .inr ⟨v, hj ▸ hi⟩
    · exact .inl ((s.base_setBase d j v).trans (if_neg hj))
  | lenSet d v hi => exact .inl (s.base_setLen d j v)
  | vectorStored d w l hi hr => exact .inl (s.base_writeVec w d j l)
  | _ => exact .inl (State.base_congr (by simp) j)

theorem len_written (h : Effect i s t) (j : DReg) : t.len j = s.len j ∨ (∃ v, i = .dlen j v) ∨ destVec i = some j := by
  cases h with
  | baseSet d v hi => exact .inl (s.len_setBase d j v)
  | lenSet d v hi =>
    by_cases hj : j = d
    · exact .inr (.inl ⟨v, hj ▸ hi⟩)
    · exact .inl ((s.len_setLen d j v).trans (if_neg hj))
  | vectorStored d w l hi hr =>
    by_cases hj : j = d
    · exact .inr (.inr (hj ▸ hi))
    · exact .inl ((s.len_writeVec w d j l).trans (if_neg hj))
  | _ => exact .inl (State.len_congr (by simp) j)

theorem byte_written (h : Effect i s t) :
    SameBytes s t ∨ (∃ x v, i = .mwb x v) ∨ (∃ d a x, i = .est d a x) ∨ destVec i ≠ none := by
  cases h with
  | byteStored a v hi ha => exact .inr (.inl ⟨a, v, hi⟩)
  | itemStored d a idx addr k v hi hr => exact .inr (.inr (.inl ⟨d, a, idx, hi⟩))
  | vectorStored d w l hi hr => exact .inr (.inr (.inr (by rw [hi]; exact Option.some_ne_none d)))
  | _ => exact .inl (State.byte_congr (by simp) (by simp))

/-- Every effect keeps the invariant: each is put together from operations that keep it. -/
theorem inv (h : Effect i s t) (hs : s.Inv) : t.Inv := by
  have hreg : s.RegistersReduced := hs.left
  cases h with
  | answered c x => exact hs.respond c x
  | raised x => exact hs.raise _ x
  | cleared hi => exact hs.clearError.ok
  | configured lam w hi => exact (hs.configure w).ok
  | baseSet d v hi => exact (hs.setBase d v).ok
  | lenSet d v hi => exact (hs.setLen d v).ok
  | byteStored a v hi ha => exact (hs.setByte ha v).ok
  | itemStored d a idx addr k v hi hr => exact (hs.memWrite hr v).ok
  | flagSet a b w f x hi hl => exact (hs.setEq hl f).respond _ _
  | elemSet d w v hi hl hv => exact (hs.setElem hl d (hv hreg)).ok
  | accSet w v hi hl hv => exact (hs.setAcc hl (hv hreg)).ok
  | dotSet d a b w v hi hl hv => exact ((hs.setAcc hl hv).setElem hl d (reduce_lt_of_acc w hv)).ok
  | vectorStored d w l hi hr => exact (hs.writeVec hr).ok

end Effect

theorem writesAccOnly_iff {i : Instr} :
    writesAccOnly i = true ↔ i = .aclr ∨ (∃ a b, i = .clmul a b) ∨ ∃ a b, i = .clmac a b := by
  cases i <;> simp [writesAccOnly]

/-! ## The status word, bit field by bit field (R14) -/

theorem lambdaCode_lt (l : Option Width) : lambdaCode l < 2 ^ 3 := by
  cases l with
  | none => exact Nat.two_pow_pos _
  | some w => cases w <;> decide

theorem flagBit_eq_toNat (b : Bool) : flagBit b = b.toNat := by cases b <;> rfl

/-- The fields of the status word do not overlap, so the word is their sum. -/
theorem statusWord_eq (s : State) : statusWord s = s.err.toNat * 2 ^ 4 + (s.eq.toNat * 2 ^ 3 + lambdaCode s.lambda) := by
  have hflag := s.eq.toNat_lt
  have hcode := lambdaCode_lt s.lambda
  rw [statusWord, flagBit_eq_toNat, Nat.or_assoc, ← Nat.shiftLeft_add_eq_or_of_lt hcode,
    ← Nat.shiftLeft_add_eq_or_of_lt (by rw [Nat.shiftLeft_eq]; omega), Nat.shiftLeft_eq, Nat.shiftLeft_eq]

/-! ## The obligations -/

/-- Settles O22: a step is idle, a reset, an illegal word or a command, and each keeps the invariant. -/
theorem everyStepKeepsTheInvariant : Obligations.EveryStepKeepsTheInvariant := by
  intro s t hs hstep
  rcases step_cases s with ⟨-, h⟩ | ⟨rest, -, h⟩ | ⟨w, rest, x, -, -, h⟩ | ⟨w, rest, i, -, -, h⟩ <;>
    rw [h] at hstep
  · exact Host.Outcome.next.inj hstep ▸ hs
  · exact Host.Outcome.next.inj hstep ▸ State.Inv.resetUnit
  · exact Host.Outcome.next.inj hstep ▸ State.Inv.illegalCommand (s := { s with pending := rest }) hs w
  · exact (effect_of_exec hstep).inv hs

/-- Settles O18: the write sets of `LAMBDA`, `EQ` and `ACC`, from the effects. -/
theorem controlStateWrittenOnlyByItsCommands : Obligations.ControlStateWrittenOnlyByItsCommands := by
  intro i s t h
  have heff := effect_of_exec h
  refine ⟨heff.lambda_written.resolve_left, heff.eq_written.resolve_left, fun hacc => ?_, heff.config_eq⟩
  rcases heff.acc_written.resolve_left hacc with hi | hvdot | hcfg
  · rcases writesAccOnly_iff.1 hi with haclr | hclmul | hclmac
    · exact .inl haclr
    · exact .inr (.inl hclmul)
    · exact .inr (.inr (.inl hclmac))
  · exact .inr (.inr (.inr (.inl hvdot)))
  · exact .inr (.inr (.inr (.inr hcfg)))

/-- Settles O19, from the effects. -/
theorem elementRegistersWrittenOnlyWhereNamed : Obligations.ElementRegistersWrittenOnlyWhereNamed :=
  fun _ _ _ j h => ((effect_of_exec h).elem_written j).resolve_left

/-- Settles O20: the write sets of `BASE`, `LEN` and memory, from the effects. -/
theorem descriptorsAndMemoryWrittenOnlyByTheirCommands : Obligations.DescriptorsAndMemoryWrittenOnlyByTheirCommands := by
  intro i s t h
  have heff := effect_of_exec h
  exact ⟨fun j => (heff.base_written j).resolve_left, fun j => (heff.len_written j).resolve_left,
    fun ⟨a, ha⟩ => heff.byte_written.resolve_left fun hsame => ha (hsame a)⟩

/-- Settles O25: the response is the status word, whose fields are read off its sum. -/
theorem statReturnsTheStatusWord : Obligations.StatReturnsTheStatusWord := by
  intro s
  have hsum := statusWord_eq s
  have hcode := lambdaCode_lt s.lambda
  have hflag := s.eq.toNat_lt
  have herr := s.err.isLt
  have hword : (BitVec.ofNat 64 (statusWord s)).toNat = statusWord s := by
    rw [BitVec.toNat_ofNat]; omega
  refine ⟨BitVec.ofNat 64 (statusWord s), rfl, ?lambda, ?eq, ?err, ?zero⟩
  case lambda =>
    have hfield : ((BitVec.ofNat 64 (statusWord s)).extractLsb' 0 3).toNat = lambdaCode s.lambda := by
      rw [BitVec.extractLsb'_toNat, hword, Nat.shiftRight_eq_div_pow]; omega
    rw [hfield]
    rfl
  case eq =>
    have hfield : statusWord s / 2 ^ 3 % 2 = s.eq.toNat := by omega
    rw [BitVec.getLsbD, hword, Nat.testBit_eq_decide_div_mod_eq, hfield]
    cases s.eq <;> rfl
  case err =>
    apply BitVec.eq_of_toNat_eq
    rw [BitVec.extractLsb'_toNat, hword, Nat.shiftRight_eq_div_pow]; omega
  case zero =>
    apply BitVec.eq_of_toNat_eq
    rw [BitVec.extractLsb'_toNat, hword, Nat.shiftRight_eq_div_pow]
    change _ = 0
    omega

/-- `EQ` says whether the two registers hold the same number (R13). -/
theorem equalFlag_eq_decide (s : State) (a b : EReg) :
    equalFlag s.e[a.val] s.e[b.val] = decide (s.elem a = s.elem b) := by
  simp only [equalFlag, State.elem, BitVec.toNat_inj, beq_eq_decide]

/-- `ECMP` in a configured unit that is not faulted (R87). -/
theorem exec_ecmp_of_ready {s : State} {w : Width} (h : s.Ready w) (a b : EReg) :
    exec (.ecmp a b) s = .next (({ s with eq := decide (s.elem a = s.elem b) } : State).okData
      (flagBit (decide (s.elem a = s.elem b)))) := by
  obtain ⟨herr, hlambda⟩ := h
  rw [← equalFlag_eq_decide]
  exact congrArg _ (whenConfigured_of_ready herr hlambda _ _)

/-- Settles O35, from what `ECMP` does in a state that is ready. -/
theorem ecmpWritesAndReturnsEquality : Obligations.EcmpWritesAndReturnsEquality := by
  intro a b w s h
  constructor
  · intro heq
    rw [exec_ecmp_of_ready h, decide_eq_true heq]
    rfl
  · intro hne
    rw [exec_ecmp_of_ready h, decide_eq_false hne]
    rfl

end Sys2Proof.Machine

/-! The scratchpad (spec/20_memory.md): what `ELD` and `EST` do with the item they name, and when a command raises
`Bounds`. The one idea of the second is `BoundsExactly`: a command's rule is a chain of checks, and each check adds its
range to the list of those that raise. -/

namespace Sys2Proof.Machine

/-! ## One register or one piece of memory written: the rest is kept -/

theorem State.onlyElem_setElem (s : State) (d : EReg) (v : Nat) : OnlyElem d s (s.setElem d v).ok :=
  ⟨⟨rfl, rfl, rfl, rfl, rfl, rfl⟩, rfl, rfl, fun i hi => (s.elem_setElem d i v).trans (if_neg hi),
    fun _ => ⟨rfl, rfl⟩, fun _ => rfl⟩

theorem State.onlyBytes_memWrite (s : State) (addr k v : Nat) : OnlyBytes addr k s (s.memWrite addr k v).ok := by
  have hcontrol : SameControl s (s.memWrite addr k v).ok := by simp [SameControl]
  exact ⟨hcontrol, s.memWrite_eq addr k v, s.memWrite_acc addr k v, State.elem_congr (s.memWrite_e addr k v),
    fun i => ⟨State.base_congr (s.memWrite_d addr k v) i, State.len_congr (s.memWrite_d addr k v) i⟩,
    fun _ ha => State.byte_memWrite_outside v s ha⟩

/-! ## Bytes as numbers (R31, R32) -/

theorem State.memRead_digit (s : State) {addr k j : Nat} (hj : j < k) :
    s.memRead addr k / 256 ^ j % 256 = (s.byte (addr + j)).toNat := by
  rw [← s.memRead_byte hj, BitVec.toNat_ofNat]

theorem State.byte_memWrite_digit (s : State) {addr k j : Nat} (v : Nat) (hj : j < k) :
    ((s.memWrite addr k v).byte (addr + j)).toNat = v / 256 ^ j % 256 := by
  rw [State.byte_memWrite, if_pos (by omega), Nat.add_sub_cancel_left, BitVec.toNat_ofNat]

/-- An item read under the active width is an element of the field (R88). -/
theorem State.memRead_item_lt (s : State) (w : Width) (addr : Nat) : s.memRead addr w.bs < 2 ^ w.n :=
  Width.pow_bs w ▸ s.memRead_lt addr w.bs

/-- A field element fits an element register, so that it is kept as it is (R17). -/
theorem State.elem_setElem_same (s : State) {w : Width} (d : EReg) {v : Nat} (hv : v < 2 ^ w.n) :
    (s.setElem d v).elem d = v := by
  rw [State.elem_setElem, if_pos rfl, Nat.mod_eq_of_lt (Nat.lt_of_lt_of_le hv (Width.pow_n_le w))]

/-! ## `ELD` and `EST` in a unit that is ready: the item has an address, or `Bounds` is raised (R88, R89) -/

theorem State.itemAddress_eq_none {s : State} {w : Width} {a : DReg} {idx : Nat} :
    s.itemAddress w a idx = none ↔ s.len a ≤ idx ∨ s.config.memBytes < s.base a + idx * w.bs + w.bs := by
  unfold State.itemAddress
  split_ifs with hidx hend
  · simp [hidx]
  · simp [hend]
  · simp [hidx, hend]

section

variable {s : State} {w : Width} {a : DReg} {idx : Half}

theorem exec_eld_of_item (h : s.Ready w) (d : EReg) {addr : Nat} (ha : s.itemAddress w a idx.toNat = some addr) :
    exec (.eld d a idx) s = .next (s.setElem d (s.memRead addr w.bs)).ok := by
  obtain ⟨herr, hlambda⟩ := h
  rw [exec, execEld, whenConfigured_of_ready herr hlambda, ha]

theorem exec_eld_of_no_item (h : s.Ready w) (d : EReg) (ha : s.itemAddress w a idx.toNat = none) :
    exec (.eld d a idx) s = .next (s.raiseBy (.eld d a idx) .bounds) := by
  obtain ⟨herr, hlambda⟩ := h
  rw [exec, execEld, whenConfigured_of_ready herr hlambda, ha]

theorem exec_est_of_item (h : s.Ready w) (d : EReg) {addr : Nat} (ha : s.itemAddress w a idx.toNat = some addr) :
    exec (.est d a idx) s = .next (s.memWrite addr w.bs (s.elem d)).ok := by
  obtain ⟨herr, hlambda⟩ := h
  rw [exec, execEst, whenConfigured_of_ready herr hlambda, ha]

theorem exec_est_of_no_item (h : s.Ready w) (d : EReg) (ha : s.itemAddress w a idx.toNat = none) :
    exec (.est d a idx) s = .next (s.raiseBy (.est d a idx) .bounds) := by
  obtain ⟨herr, hlambda⟩ := h
  rw [exec, execEst, whenConfigured_of_ready herr hlambda, ha]

end

/-! ## When `Bounds` is raised (R34, R158, R164) -/

/-- The range (base, count, stride) is not empty and runs past the end of memory. -/
def State.Leaves (s : State) (r : Nat × Nat × Nat) : Prop := r.2.1 ≠ 0 ∧ s.config.memBytes < r.1 + r.2.1 * r.2.2

theorem State.not_inRange_iff_leaves (s : State) (base count stride : Nat) :
    ¬ s.InRange base count stride ↔ s.Leaves (base, count, stride) := by
  rw [State.InRange, not_or, Nat.not_le, State.Leaves]

/-- An item is one range of one stride: it has no address when its index is not below `LEN` or its range leaves memory. -/
theorem State.itemAddress_eq_none_iff_leaves {s : State} {w : Width} {a : DReg} {idx : Nat} :
    s.itemAddress w a idx = none ↔ ¬ idx < s.len a ∨ s.Leaves (s.base a + idx * w.bs, 1, w.bs) := by
  rw [State.itemAddress_eq_none, State.Leaves, Nat.one_mul, Nat.not_lt, and_iff_right Nat.one_ne_zero]

/-- The state `k`, in which a command on `s` ends, has `Bounds` latched exactly when the lengths agree (`agree`) and the index
is out of its vector (`¬ index`) or one of the ranges `rs` leaves memory. -/
def BoundsExactly (s : State) (agree index : Prop) (rs : List (Nat × Nat × Nat)) (k : State) : Prop :=
  k.err = 7 ↔ agree ∧ (¬ index ∨ ∃ r ∈ rs, s.Leaves r)

theorem State.Ready.err_ne_bounds {s k : State} {w : Width} (h : s.Ready w) (hk : k.err = s.err) : k.err ≠ 7 := by
  obtain ⟨herr, -⟩ := h
  rw [hk, herr]
  decide

namespace BoundsExactly

variable {i : Instr} {s k : State} {w : Width} {agree index : Prop} {rs : List (Nat × Nat × Nat)}

/-- With no check left, no `Bounds`. -/
theorem of_err_ne (hk : k.err ≠ 7) : BoundsExactly s True True [] k :=
  iff_of_false hk (by simp)

/-- With no check left, a command that does not write `ERR` raises nothing. -/
theorem of_done (h : s.Ready w) (hk : k.err = s.err) : BoundsExactly s True True [] k :=
  of_err_ne (h.err_ne_bounds hk)

theorem of_whenRunning (h : s.Ready w) (hk : BoundsExactly s agree index rs k) :
    BoundsExactly s agree index rs (whenRunning s k) := by
  rwa [whenRunning_of_running h.left]

theorem of_whenConfigured {k : Width → State} (h : s.Ready w) (hk : BoundsExactly s agree index rs (k w)) :
    BoundsExactly s agree index rs (whenConfigured i s k) := by
  rwa [whenConfigured_of_ready h.left h.right]

/-- A check that raises `Bounds` on a range adds that range to those of the checks after it. -/
theorem of_check {c : Prop} [Decidable c] {r : Nat × Nat × Nat} (hc : c ↔ s.Leaves r)
    (hk : BoundsExactly s True True rs k) :
    BoundsExactly s True True (r :: rs) (if c then s.raiseBy i .bounds else k) := by
  split_ifs with h
  · exact iff_of_true rfl ⟨trivial, .inr ⟨r, List.mem_cons_self, hc.1 h⟩⟩
  · rw [BoundsExactly, List.exists_mem_cons_iff, ← hc, or_iff_right h]
    exact hk

theorem of_inRange {base count stride : Nat} (hk : BoundsExactly s True True rs k) :
    BoundsExactly s True True ((base, count, stride) :: rs)
      (if ¬ s.InRange base count stride then s.raiseBy i .bounds else k) :=
  of_check (s.not_inRange_iff_leaves base count stride) hk

/-- The check of one byte at a 16-bit address (R66, R67). -/
theorem of_byte {addr : Nat} (hk : BoundsExactly s True True rs k) :
    BoundsExactly s True True ((addr, 1, 1) :: rs)
      (if s.config.memBytes ≤ addr then s.raiseBy i .bounds else k) :=
  of_check (by simp only [State.Leaves]; omega) hk

/-- The last check of a command that produces a vector, and the store (R34, R36). -/
theorem of_store (h : s.Ready w) {d : DReg} {count : Nat} {l : List Nat} :
    BoundsExactly s True True [(s.base d, count, w.bs)]
      (if ¬ s.DestInRange w d count then s.raiseBy i .bounds else (s.writeVec w d l).ok) :=
  of_inRange (of_done h (s.writeVec_err w d l))

/-- The check of the lengths comes first and raises another error, so `Bounds` needs that they agree (R145, R164). -/
theorem of_lengths {c : Prop} [Decidable c] {x : ErrorKind} (hx : x.code ≠ 7) (hc : ¬ c ↔ agree)
    (hk : BoundsExactly s True index rs k) :
    BoundsExactly s agree index rs (if c then s.raiseBy i x else k) := by
  split_ifs with h
  · exact iff_of_false hx fun ⟨hagree, _⟩ => hc.2 hagree h
  · exact Iff.trans hk (and_congr_left' (iff_of_true trivial (hc.1 h)))

/-- `ELD` and `EST` raise `Bounds` when their item has no address, and no other error (R88, R89). -/
theorem of_item {a : DReg} {idx : Nat} (hk : k.err = 7 ↔ s.itemAddress w a idx = none) :
    BoundsExactly s True (idx < s.len a) [(s.base a + idx * w.bs, 1, w.bs)] k := by
  rw [BoundsExactly, hk, State.itemAddress_eq_none_iff_leaves]
  simp

end BoundsExactly

/-- The checks of every command, in their order, are those of its lengths, its index and its ranges. -/
theorem exec_boundsExactly (i : Instr) {s : State} {w : Width} (h : s.Ready w) :
    ∃ t, exec i s = .next t ∧ BoundsExactly s (lengthsAgree i s) (indexBelowLen i s) (checkedRanges w i s) t := by
  cases i with
  -- no check of memory
  | nop | dbase | dlen | dget => exact ⟨_, rfl, .of_whenRunning h (.of_done h rfl)⟩
  | stat | rdecmd => exact ⟨_, rfl, .of_done h rfl⟩
  | clrerr => exact ⟨_, rfl, .of_err_ne (by decide : (0 : BitVec 4) ≠ 7)⟩
  | cfg lam =>
    refine ⟨_, rfl, .of_whenRunning h (.of_err_ne ?_)⟩
    split
    · exact (by decide : ErrorKind.unsupportedConfig.code ≠ 7)
    · exact h.err_ne_bounds rfl
  | eli | elis | eget | emov | eadd | emul | ecmp | aclr | clmul | clmac | ared | agetl | ageth | lifti =>
    exact ⟨_, rfl, .of_whenConfigured h (.of_done h rfl)⟩
  | einv d a =>
    refine ⟨_, rfl, .of_whenConfigured h (.of_err_ne ?_)⟩
    split_ifs
    · exact (by decide : ErrorKind.singular.code ≠ 7)
    · exact h.err_ne_bounds rfl
  -- one byte
  | mwb | mrb => exact ⟨_, rfl, .of_whenRunning h (.of_byte (.of_done h rfl))⟩
  -- one item
  | eld d a idx =>
    cases ha : s.itemAddress w a idx.toNat with
    | none => exact ⟨_, exec_eld_of_no_item h d ha, .of_item (iff_of_true rfl ha)⟩
    | some addr =>
      exact ⟨_, exec_eld_of_item h d ha, .of_item (iff_of_false (h.err_ne_bounds rfl) (by simp [ha]))⟩
  | est d a idx =>
    cases ha : s.itemAddress w a idx.toNat with
    | none => exact ⟨_, exec_est_of_no_item h d ha, .of_item (iff_of_true rfl ha)⟩
    | some addr =>
      exact ⟨_, exec_est_of_item h d ha,
        .of_item (iff_of_false (h.err_ne_bounds (s.memWrite_err addr w.bs _)) (by simp [ha]))⟩
  -- whole vectors
  | pgen => exact ⟨_, rfl, .of_whenConfigured h (.of_store h)⟩
  | vlift | proots | vscale => exact ⟨_, rfl, .of_whenConfigured h (.of_inRange (.of_store h))⟩
  | vconv => exact ⟨_, rfl, .of_whenConfigured h (.of_inRange (.of_inRange (.of_store h)))⟩
  | peval => exact ⟨_, rfl, .of_whenConfigured h (.of_inRange (.of_done h rfl))⟩
  | lpre d a =>
    refine ⟨_, rfl, .of_whenConfigured h (.of_inRange (.of_inRange (.of_err_ne ?_)))⟩
    split_ifs
    · exact (by decide : ErrorKind.singular.code ≠ 7)
    · exact h.err_ne_bounds (s.writeVec_err w d _)
  -- whole vectors whose lengths are checked first
  | lint d a b =>
    refine ⟨_, rfl, .of_whenConfigured h
      (.of_lengths (by decide) ?_ (.of_inRange (.of_inRange (.of_store h))))⟩
    simp only [not_or, not_not, lengthsAgree, ne_eq]
  | vadd =>
    exact ⟨_, rfl, .of_whenConfigured h (.of_lengths (by decide) not_not (.of_inRange (.of_inRange (.of_store h))))⟩
  | vdot =>
    exact ⟨_, rfl, .of_whenConfigured h
      (.of_lengths (by decide) not_not (.of_inRange (.of_inRange (.of_done h rfl))))⟩

/-! ## The obligations -/

/-- Settles O15: the checks of the command's rule, read off one by one. -/
theorem boundsRaisedExactlyWhen : Obligations.BoundsRaisedExactlyWhen := by
  intro i w s t h hexec
  obtain ⟨u, hu, hbounds⟩ := exec_boundsExactly i h
  obtain rfl : u = t := Host.Outcome.next.inj (hu.symm.trans hexec)
  exact hbounds

/-- Settles O36: the element is what `MemRead` gives at the item's address. -/
theorem eldLoadsLittleEndian : Obligations.EldLoadsLittleEndian := by
  intro d a idx w s h
  refine ⟨fun hidx hend => ?_, fun hout => exec_eld_of_no_item h d (State.itemAddress_eq_none.2 hout)⟩
  have hlt := s.memRead_item_lt w (s.base a + idx.toNat * w.bs)
  have helem : (s.setElem d (s.memRead (s.base a + idx.toNat * w.bs) w.bs)).ok.elem d = _ := s.elem_setElem_same d hlt
  refine ⟨_, exec_eld_of_item h d (State.itemAddress_eq_some.2 ⟨hidx, hend, rfl⟩), rfl, ?_, ?_, s.onlyElem_setElem d _⟩
  · rwa [helem]
  · intro j hj
    rw [helem, s.memRead_digit hj]

/-- Settles O37: the bytes are those of `MemWrite` at the item's address. -/
theorem estStoresExactlyTheItem : Obligations.EstStoresExactlyTheItem := by
  intro d a idx w s h
  refine ⟨fun addr ha => ?_, State.itemAddress_eq_none, exec_est_of_no_item h d⟩
  obtain ⟨-, -, haddr⟩ := State.itemAddress_eq_some.1 ha
  exact ⟨haddr, _, exec_est_of_item h d ha, rfl, fun j hj => s.byte_memWrite_digit (s.elem d) hj,
    s.onlyBytes_memWrite addr w.bs (s.elem d)⟩

end Sys2Proof.Machine

/-! The command words (spec/30_encoding.md R48 to R52). The one idea is that the fields of a format partition a word: a
word is the word of a command exactly when its opcode byte, its operand fields and its must-be-zero field are the
command's. -/

namespace Sys2Proof

/-! ## The fields of a word as numbers (R48) -/

theorem field_toNat (w : Word) (k n : Nat) : (w.extractLsb' k n).toNat = w.toNat / 2 ^ k % 2 ^ n := by
  rw [BitVec.extractLsb'_toNat, Nat.shiftRight_eq_div_pow]

theorem field_eq_iff {w : Word} {k n : Nat} {x : BitVec n} :
    w.extractLsb' k n = x ↔ w.toNat / 2 ^ k % 2 ^ n = x.toNat := by
  rw [BitVec.toNat_eq, field_toNat]

theorem field_eq_zero_iff {w : Word} {k n : Nat} : w.extractLsb' k n = 0 ↔ w.toNat / 2 ^ k % 2 ^ n = 0 := by
  rw [field_eq_iff]
  simp

theorem opField_eq_iff {w : Word} {op : BitVec 8} : opField w = op ↔ w.toNat / 2 ^ 24 % 2 ^ 8 = op.toNat :=
  field_eq_iff

theorem imm16Field_eq_iff {w : Word} {v : Half} : imm16Field w = v ↔ w.toNat / 2 ^ 0 % 2 ^ 16 = v.toNat :=
  field_eq_iff

theorem imm8Field_eq_iff {w : Word} {x : Byte} : imm8Field w = x ↔ w.toNat / 2 ^ 0 % 2 ^ 8 = x.toNat :=
  field_eq_iff

theorem addr16Field_eq_iff {w : Word} {v : Half} : addr16Field w = v ↔ w.toNat / 2 ^ 8 % 2 ^ 16 = v.toNat :=
  field_eq_iff

theorem rdField_eq_iff {w : Word} {r : Fin 16} : rdField w = r ↔ w.toNat / 2 ^ 20 % 2 ^ 4 = r.val := by
  rw [rdField, Fin.ext_iff, BitVec.val_toFin, field_toNat]

theorem raField_eq_iff {w : Word} {r : Fin 16} : raField w = r ↔ w.toNat / 2 ^ 16 % 2 ^ 4 = r.val := by
  rw [raField, Fin.ext_iff, BitVec.val_toFin, field_toNat]

theorem rbField_eq_iff {w : Word} {r : Fin 16} : rbField w = r ↔ w.toNat / 2 ^ 12 % 2 ^ 4 = r.val := by
  rw [rbField, Fin.ext_iff, BitVec.val_toFin, field_toNat]

/-! ## Each format: a word is put together from its fields in one way (R48, R54) -/

section Formats

variable {w : Word} {op : BitVec 8} {d a b : Fin 16} {v : Half} {x : Byte}

theorem encodeZ_eq_iff : encodeZ op = w ↔ opField w = op ∧ w.extractLsb' 0 24 = 0 := by
  rw [encodeZ, ← BitVec.toNat_inj, Laws.toNat_append, opField_eq_iff, field_eq_zero_iff, BitVec.toNat_ofNat]
  omega

theorem encodeC_eq_iff : encodeC op v = w ↔ opField w = op ∧ imm16Field w = v ∧ w.extractLsb' 16 8 = 0 := by
  rw [encodeC, ← BitVec.toNat_inj, Laws.toNat_append, Laws.toNat_append, opField_eq_iff, imm16Field_eq_iff,
    field_eq_zero_iff, BitVec.toNat_ofNat]
  omega

theorem encodeM_eq_iff : encodeM op v x = w ↔ opField w = op ∧ addr16Field w = v ∧ imm8Field w = x := by
  rw [encodeM, ← BitVec.toNat_inj, Laws.toNat_append, Laws.toNat_append, opField_eq_iff, addr16Field_eq_iff,
    imm8Field_eq_iff]
  omega

theorem encodeR1_eq_iff : encodeR1 op d = w ↔ opField w = op ∧ rdField w = d ∧ w.extractLsb' 0 20 = 0 := by
  rw [encodeR1, ← BitVec.toNat_inj, Laws.toNat_append, Laws.toNat_append, Laws.regBits_toNat, opField_eq_iff,
    rdField_eq_iff, field_eq_zero_iff, BitVec.toNat_ofNat]
  omega

theorem encodeR2_eq_iff :
    encodeR2 op d a = w ↔ opField w = op ∧ rdField w = d ∧ raField w = a ∧ w.extractLsb' 0 16 = 0 := by
  rw [encodeR2, ← BitVec.toNat_inj, Laws.toNat_append, Laws.toNat_append, Laws.toNat_append, Laws.regBits_toNat,
    Laws.regBits_toNat, opField_eq_iff, rdField_eq_iff, raField_eq_iff, field_eq_zero_iff, BitVec.toNat_ofNat]
  omega

theorem encodeR3_eq_iff : encodeR3 op d a b = w ↔
    opField w = op ∧ rdField w = d ∧ raField w = a ∧ rbField w = b ∧ w.extractLsb' 0 12 = 0 := by
  rw [encodeR3, ← BitVec.toNat_inj, Laws.toNat_append, Laws.toNat_append, Laws.toNat_append, Laws.toNat_append,
    Laws.regBits_toNat, Laws.regBits_toNat, Laws.regBits_toNat, opField_eq_iff, rdField_eq_iff, raField_eq_iff,
    rbField_eq_iff, field_eq_zero_iff, BitVec.toNat_ofNat]
  omega

theorem encodeRAB_eq_iff : encodeRAB op a b = w ↔
    opField w = op ∧ raField w = a ∧ rbField w = b ∧ w.extractLsb' 20 4 = 0 ∧ w.extractLsb' 0 12 = 0 := by
  rw [encodeRAB, ← BitVec.toNat_inj, Laws.toNat_append, Laws.toNat_append, Laws.toNat_append, Laws.toNat_append,
    Laws.regBits_toNat, Laws.regBits_toNat, opField_eq_iff, raField_eq_iff, rbField_eq_iff, field_eq_zero_iff,
    field_eq_zero_iff, BitVec.toNat_ofNat, BitVec.toNat_ofNat]
  omega

theorem encodeI_eq_iff :
    encodeI op d v = w ↔ opField w = op ∧ rdField w = d ∧ imm16Field w = v ∧ w.extractLsb' 16 4 = 0 := by
  rw [encodeI, ← BitVec.toNat_inj, Laws.toNat_append, Laws.toNat_append, Laws.toNat_append, Laws.regBits_toNat,
    opField_eq_iff, rdField_eq_iff, imm16Field_eq_iff, field_eq_zero_iff, BitVec.toNat_ofNat]
  omega

theorem encodeIX_eq_iff :
    encodeIX op d a v = w ↔ opField w = op ∧ rdField w = d ∧ raField w = a ∧ imm16Field w = v := by
  rw [encodeIX, ← BitVec.toNat_inj, Laws.toNat_append, Laws.toNat_append, Laws.toNat_append, Laws.regBits_toNat,
    Laws.regBits_toNat, opField_eq_iff, rdField_eq_iff, raField_eq_iff, imm16Field_eq_iff]
  omega

theorem encodeI8_eq_iff :
    encodeI8 op d x = w ↔ opField w = op ∧ rdField w = d ∧ imm8Field w = x ∧ w.extractLsb' 8 12 = 0 := by
  rw [encodeI8, ← BitVec.toNat_inj, Laws.toNat_append, Laws.toNat_append, Laws.toNat_append, Laws.regBits_toNat,
    opField_eq_iff, rdField_eq_iff, imm8Field_eq_iff, field_eq_zero_iff, BitVec.toNat_ofNat]
  omega

/-! ## The opcode byte of a command's word (R48, R54) -/

theorem opField_encodeZ : opField (encodeZ op) = op := (encodeZ_eq_iff.1 rfl).left
theorem opField_encodeC : opField (encodeC op v) = op := (encodeC_eq_iff.1 rfl).left
theorem opField_encodeM : opField (encodeM op v x) = op := (encodeM_eq_iff.1 rfl).left
theorem opField_encodeR1 : opField (encodeR1 op d) = op := (encodeR1_eq_iff.1 rfl).left
theorem opField_encodeR2 : opField (encodeR2 op d a) = op := (encodeR2_eq_iff.1 rfl).left
theorem opField_encodeR3 : opField (encodeR3 op d a b) = op := (encodeR3_eq_iff.1 rfl).left
theorem opField_encodeRAB : opField (encodeRAB op a b) = op := (encodeRAB_eq_iff.1 rfl).left
theorem opField_encodeI : opField (encodeI op d v) = op := (encodeI_eq_iff.1 rfl).left
theorem opField_encodeIX : opField (encodeIX op d a v) = op := (encodeIX_eq_iff.1 rfl).left
theorem opField_encodeI8 : opField (encodeI8 op d x) = op := (encodeI8_eq_iff.1 rfl).left

/-! ## Each format's decoder accepts the words of its encoder, and gives the operands back (R48, R51) -/

theorem ifZero_eq_ok_iff {n : Nat} {z : BitVec n} {i j : Instr} : ifZero z i = .ok j ↔ z = 0 ∧ i = j := by
  rw [ifZero]
  split_ifs with hz
  · rw [Except.ok.injEq, and_iff_right hz]
  · exact iff_of_false nofun fun ⟨h, _⟩ => hz h

theorem append_eq_zero_iff {m n : Nat} {y : BitVec m} {z : BitVec n} : y ++ z = 0 ↔ y = 0 ∧ z = 0 := by
  simp [← BitVec.toNat_inj]

variable {i : Instr}

theorem decodeZ_eq_ok_iff {c : Instr} (hop : opField w = op) : decodeZ w c = .ok i ↔ encodeZ op = w ∧ c = i := by
  rw [decodeZ, ifZero_eq_ok_iff, encodeZ_eq_iff, and_iff_right hop]

theorem decodeC_eq_ok_iff {c : Half → Instr} (hop : opField w = op) :
    decodeC w c = .ok i ↔ ∃ v, encodeC op v = w ∧ c v = i := by
  simp [decodeC, ifZero_eq_ok_iff, encodeC_eq_iff, hop]

theorem decodeM_eq_ok_iff {c : Half → Byte → Instr} (hop : opField w = op) :
    decodeM w c = .ok i ↔ ∃ v x, encodeM op v x = w ∧ c v x = i := by
  simp [decodeM, encodeM_eq_iff, hop]

theorem decodeMR_eq_ok_iff {c : Half → Instr} (hop : opField w = op) :
    decodeMR w c = .ok i ↔ ∃ v, encodeM op v 0 = w ∧ c v = i := by
  simp [decodeMR, ifZero_eq_ok_iff, encodeM_eq_iff, hop, imm8Field]

theorem decodeR1_eq_ok_iff {c : Fin 16 → Instr} (hop : opField w = op) :
    decodeR1 w c = .ok i ↔ ∃ d, encodeR1 op d = w ∧ c d = i := by
  simp [decodeR1, ifZero_eq_ok_iff, encodeR1_eq_iff, hop]

theorem decodeR2_eq_ok_iff {c : Fin 16 → Fin 16 → Instr} (hop : opField w = op) :
    decodeR2 w c = .ok i ↔ ∃ d a, encodeR2 op d a = w ∧ c d a = i := by
  simp [decodeR2, ifZero_eq_ok_iff, encodeR2_eq_iff, hop]

theorem decodeR3_eq_ok_iff {c : Fin 16 → Fin 16 → Fin 16 → Instr} (hop : opField w = op) :
    decodeR3 w c = .ok i ↔ ∃ d a b, encodeR3 op d a b = w ∧ c d a b = i := by
  simp [decodeR3, ifZero_eq_ok_iff, encodeR3_eq_iff, hop]

theorem decodeRAB_eq_ok_iff {c : Fin 16 → Fin 16 → Instr} (hop : opField w = op) :
    decodeRAB w c = .ok i ↔ ∃ a b, encodeRAB op a b = w ∧ c a b = i := by
  rw [decodeRAB, ifZero_eq_ok_iff, append_eq_zero_iff (m := 4) (n := 12)]
  simp [encodeRAB_eq_iff, hop]

theorem decodeI_eq_ok_iff {c : Fin 16 → Half → Instr} (hop : opField w = op) :
    decodeI w c = .ok i ↔ ∃ d v, encodeI op d v = w ∧ c d v = i := by
  simp [decodeI, ifZero_eq_ok_iff, encodeI_eq_iff, hop]

theorem decodeIX_eq_ok_iff {c : Fin 16 → Fin 16 → Half → Instr} (hop : opField w = op) :
    decodeIX w c = .ok i ↔ ∃ d a v, encodeIX op d a v = w ∧ c d a v = i := by
  simp [decodeIX, encodeIX_eq_iff, hop]

theorem decodeI8_eq_ok_iff {c : Fin 16 → Byte → Instr} (hop : opField w = op) :
    decodeI8 w c = .ok i ↔ ∃ d x, encodeI8 op d x = w ∧ c d x = i := by
  simp [decodeI8, ifZero_eq_ok_iff, encodeI8_eq_iff, hop]

end Formats

/-! ## Decoder and encoder are inverse to each other -/

theorem opField_of_toNat {w : Word} {k : Nat} (h : (opField w).toNat = k) : opField w = BitVec.ofNat 8 k := by
  rw [← h, BitVec.ofNat_toNat, BitVec.setWidth_eq]

/-- Settles O1: the word's opcode byte selects the command's branch, whose format gives the operands back. -/
theorem decodeOfEncode : Obligations.DecodeOfEncode := by
  intro i
  cases i with
  | nop | stat | rdecmd | clrerr | aclr | agetl | ageth =>
    rw [encode, decode, opField_encodeZ]
    exact (decodeZ_eq_ok_iff opField_encodeZ).2 ⟨rfl, rfl⟩
  | cfg =>
    rw [encode, decode, opField_encodeC]
    exact (decodeC_eq_ok_iff opField_encodeC).2 ⟨_, rfl, rfl⟩
  | mwb =>
    rw [encode, decode, opField_encodeM]
    exact (decodeM_eq_ok_iff opField_encodeM).2 ⟨_, _, rfl, rfl⟩
  | mrb =>
    rw [encode, decode, opField_encodeM]
    exact (decodeMR_eq_ok_iff opField_encodeM).2 ⟨_, rfl, rfl⟩
  | dbase | dlen | eli | elis | pgen =>
    rw [encode, decode, opField_encodeI]
    exact (decodeI_eq_ok_iff opField_encodeI).2 ⟨_, _, rfl, rfl⟩
  | dget | eget | ared =>
    rw [encode, decode, opField_encodeR1]
    exact (decodeR1_eq_ok_iff opField_encodeR1).2 ⟨_, rfl, rfl⟩
  | emov | einv | vlift | proots | lpre =>
    rw [encode, decode, opField_encodeR2]
    exact (decodeR2_eq_ok_iff opField_encodeR2).2 ⟨_, _, rfl, rfl⟩
  | eadd | emul | peval | lint | vadd | vscale | vdot | vconv =>
    rw [encode, decode, opField_encodeR3]
    exact (decodeR3_eq_ok_iff opField_encodeR3).2 ⟨_, _, _, rfl, rfl⟩
  | ecmp | clmul | clmac =>
    rw [encode, decode, opField_encodeRAB]
    exact (decodeRAB_eq_ok_iff opField_encodeRAB).2 ⟨_, _, rfl, rfl⟩
  | eld | est =>
    rw [encode, decode, opField_encodeIX]
    exact (decodeIX_eq_ok_iff opField_encodeIX).2 ⟨_, _, _, rfl, rfl⟩
  | lifti =>
    rw [encode, decode, opField_encodeI8]
    exact (decodeI8_eq_ok_iff opField_encodeI8).2 ⟨_, _, rfl, rfl⟩

/-- Settles O2: in each branch of the decoder the word is put together again from its fields. -/
theorem encodeOfDecode : Obligations.EncodeOfDecode := by
  intro w i h
  unfold decode at h
  split at h
  -- format Z
  case h_1 hop | h_3 hop | h_4 hop | h_5 hop | h_21 hop | h_25 hop | h_26 hop =>
    obtain ⟨rfl, rfl⟩ := (decodeZ_eq_ok_iff (opField_of_toNat hop)).1 h
    rfl
  -- format C
  case h_2 hop =>
    obtain ⟨v, rfl, rfl⟩ := (decodeC_eq_ok_iff (opField_of_toNat hop)).1 h
    rfl
  -- format M, `MWB`
  case h_6 hop =>
    obtain ⟨v, x, rfl, rfl⟩ := (decodeM_eq_ok_iff (opField_of_toNat hop)).1 h
    rfl
  -- format M, `MRB`
  case h_7 hop =>
    obtain ⟨v, rfl, rfl⟩ := (decodeMR_eq_ok_iff (opField_of_toNat hop)).1 h
    rfl
  -- format I
  case h_8 hop | h_9 hop | h_11 hop | h_12 hop | h_29 hop =>
    obtain ⟨d, v, rfl, rfl⟩ := (decodeI_eq_ok_iff (opField_of_toNat hop)).1 h
    rfl
  -- format R1
  case h_10 hop | h_13 hop | h_24 hop =>
    obtain ⟨d, rfl, rfl⟩ := (decodeR1_eq_ok_iff (opField_of_toNat hop)).1 h
    rfl
  -- format R2
  case h_14 hop | h_17 hop | h_28 hop | h_30 hop | h_32 hop =>
    obtain ⟨d, a, rfl, rfl⟩ := (decodeR2_eq_ok_iff (opField_of_toNat hop)).1 h
    rfl
  -- format R3
  case h_15 hop | h_16 hop | h_31 hop | h_33 hop | h_34 hop | h_35 hop | h_36 hop | h_37 hop =>
    obtain ⟨d, a, b, rfl, rfl⟩ := (decodeR3_eq_ok_iff (opField_of_toNat hop)).1 h
    rfl
  -- format RAB
  case h_18 hop | h_22 hop | h_23 hop =>
    obtain ⟨a, b, rfl, rfl⟩ := (decodeRAB_eq_ok_iff (opField_of_toNat hop)).1 h
    rfl
  -- format IX
  case h_19 hop | h_20 hop =>
    obtain ⟨d, a, v, rfl, rfl⟩ := (decodeIX_eq_ok_iff (opField_of_toNat hop)).1 h
    rfl
  -- format I8
  case h_27 hop =>
    obtain ⟨d, x, rfl, rfl⟩ := (decodeI8_eq_ok_iff (opField_of_toNat hop)).1 h
    rfl
  -- unassigned opcode
  case h_38 => cases h

/-! ## The rows of the opcode map (R50) -/

/-- A field that the row's mask covers has the value that it has in the row's pattern. -/
theorem OpcodeRow.field_of_selects {r : OpcodeRow} {w : Word} (h : r.selects w = true) {k n : Nat}
    (hmask : r.mask.extractLsb' k n = BitVec.allOnes n) : w.extractLsb' k n = r.pattern.extractLsb' k n := by
  rw [← eq_of_beq h, BitVec.extractLsb'_and, hmask, BitVec.and_allOnes]

/-- Every mask covers the opcode byte. -/
theorem OpcodeRow.mask_opField {r : OpcodeRow} (hr : r ∈ opcodeRows) :
    r.mask.extractLsb' 24 8 = BitVec.allOnes 8 := by
  revert r
  decide

/-- The opcode bytes of the 37 rows differ. -/
theorem opcodeRows_opField_nodup : (opcodeRows.map fun r => opField r.pattern).Nodup := by decide

/-- Settles O4: a row fixes the opcode byte of the words it selects, and no two rows have the same one. -/
theorem atMostOneRowSelectsAWord : Obligations.AtMostOneRowSelectsAWord := by
  intro w r r' hr hr' h h'
  have hop : opField w = opField r.pattern := OpcodeRow.field_of_selects h (OpcodeRow.mask_opField hr)
  have hop' : opField w = opField r'.pattern := OpcodeRow.field_of_selects h' (OpcodeRow.mask_opField hr')
  exact List.inj_on_of_nodup_map opcodeRows_opField_nodup hr hr' (hop.symm.trans hop')

/-- The word of every command is selected by the row that bears its mnemonic (R50). -/
theorem encode_selects_row (i : Instr) : Laws.EncodeSelectsRow.Statement i := by
  cases i with
  | nop => exact Laws.EncodeSelectsRow.nop
  | cfg v => exact Laws.EncodeSelectsRow.cfg v
  | stat => exact Laws.EncodeSelectsRow.stat
  | rdecmd => exact Laws.EncodeSelectsRow.rdecmd
  | clrerr => exact Laws.EncodeSelectsRow.clrerr
  | mwb v x => exact Laws.EncodeSelectsRow.mwb v x
  | mrb v => exact Laws.EncodeSelectsRow.mrb v
  | dbase d v => exact Laws.EncodeSelectsRow.dbase d v
  | dlen d v => exact Laws.EncodeSelectsRow.dlen d v
  | dget d => exact Laws.EncodeSelectsRow.dget d
  | eli d v => exact Laws.EncodeSelectsRow.eli d v
  | elis d v => exact Laws.EncodeSelectsRow.elis d v
  | eget d => exact Laws.EncodeSelectsRow.eget d
  | emov d a => exact Laws.EncodeSelectsRow.emov d a
  | eadd d a b => exact Laws.EncodeSelectsRow.eadd d a b
  | emul d a b => exact Laws.EncodeSelectsRow.emul d a b
  | einv d a => exact Laws.EncodeSelectsRow.einv d a
  | ecmp a b => exact Laws.EncodeSelectsRow.ecmp a b
  | eld d a v => exact Laws.EncodeSelectsRow.eld d a v
  | est d a v => exact Laws.EncodeSelectsRow.est d a v
  | aclr => exact Laws.EncodeSelectsRow.aclr
  | clmul a b => exact Laws.EncodeSelectsRow.clmul a b
  | clmac a b => exact Laws.EncodeSelectsRow.clmac a b
  | ared d => exact Laws.EncodeSelectsRow.ared d
  | agetl => exact Laws.EncodeSelectsRow.agetl
  | ageth => exact Laws.EncodeSelectsRow.ageth
  | lifti d x => exact Laws.EncodeSelectsRow.lifti d x
  | vlift d a => exact Laws.EncodeSelectsRow.vlift d a
  | pgen d v => exact Laws.EncodeSelectsRow.pgen d v
  | proots d a => exact Laws.EncodeSelectsRow.proots d a
  | peval d a b => exact Laws.EncodeSelectsRow.peval d a b
  | lpre d a => exact Laws.EncodeSelectsRow.lpre d a
  | lint d a b => exact Laws.EncodeSelectsRow.lint d a b
  | vadd d a b => exact Laws.EncodeSelectsRow.vadd d a b
  | vscale d a b => exact Laws.EncodeSelectsRow.vscale d a b
  | vdot d a b => exact Laws.EncodeSelectsRow.vdot d a b
  | vconv d a b => exact Laws.EncodeSelectsRow.vconv d a b

/-- A word that a row selects is the word of a command: the row fixes its opcode byte and its must-be-zero field, and the
operands are its other fields. -/
theorem exists_encode_of_selects {w : Word} :
    ∀ r ∈ opcodeRows, r.selects w = true → ∃ i, encode i = w := by
  simp only [opcodeRows, systemRows, elementRows, accumulatorRows, vectorRows, List.forall_mem_append,
    List.forall_mem_cons]
  have field {r : OpcodeRow} (h : r.selects w = true) {k n : Nat} := r.field_of_selects h (k := k) (n := n)
  refine ⟨⟨⟨?_, ?_⟩, ?_⟩, ?_⟩
  -- family 0x0_
  · exact ⟨fun h => ⟨.nop, encodeZ_eq_iff.2 ⟨field h rfl, field h rfl⟩⟩,
      fun h => ⟨.cfg _, encodeC_eq_iff.2 ⟨field h rfl, rfl, field h rfl⟩⟩,
      fun h => ⟨.stat, encodeZ_eq_iff.2 ⟨field h rfl, field h rfl⟩⟩,
      fun h => ⟨.rdecmd, encodeZ_eq_iff.2 ⟨field h rfl, field h rfl⟩⟩,
      fun h => ⟨.clrerr, encodeZ_eq_iff.2 ⟨field h rfl, field h rfl⟩⟩,
      fun h => ⟨.mwb _ _, encodeM_eq_iff.2 ⟨field h rfl, rfl, rfl⟩⟩,
      fun h => ⟨.mrb _, encodeM_eq_iff.2 ⟨field h rfl, rfl, field h rfl⟩⟩,
      fun h => ⟨.dbase _ _, encodeI_eq_iff.2 ⟨field h rfl, rfl, rfl, field h rfl⟩⟩,
      fun h => ⟨.dlen _ _, encodeI_eq_iff.2 ⟨field h rfl, rfl, rfl, field h rfl⟩⟩,
      fun h => ⟨.dget _, encodeR1_eq_iff.2 ⟨field h rfl, rfl, field h rfl⟩⟩,
      nofun⟩
  -- family 0x1_
  · exact ⟨fun h => ⟨.eli _ _, encodeI_eq_iff.2 ⟨field h rfl, rfl, rfl, field h rfl⟩⟩,
      fun h => ⟨.elis _ _, encodeI_eq_iff.2 ⟨field h rfl, rfl, rfl, field h rfl⟩⟩,
      fun h => ⟨.eget _, encodeR1_eq_iff.2 ⟨field h rfl, rfl, field h rfl⟩⟩,
      fun h => ⟨.emov _ _, encodeR2_eq_iff.2 ⟨field h rfl, rfl, rfl, field h rfl⟩⟩,
      fun h => ⟨.eadd _ _ _, encodeR3_eq_iff.2 ⟨field h rfl, rfl, rfl, rfl, field h rfl⟩⟩,
      fun h => ⟨.emul _ _ _, encodeR3_eq_iff.2 ⟨field h rfl, rfl, rfl, rfl, field h rfl⟩⟩,
      fun h => ⟨.einv _ _, encodeR2_eq_iff.2 ⟨field h rfl, rfl, rfl, field h rfl⟩⟩,
      fun h => ⟨.ecmp _ _, encodeRAB_eq_iff.2 ⟨field h rfl, rfl, rfl, field h rfl, field h rfl⟩⟩,
      fun h => ⟨.eld _ _ _, encodeIX_eq_iff.2 ⟨field h rfl, rfl, rfl, rfl⟩⟩,
      fun h => ⟨.est _ _ _, encodeIX_eq_iff.2 ⟨field h rfl, rfl, rfl, rfl⟩⟩,
      nofun⟩
  -- family 0x2_
  · exact ⟨fun h => ⟨.aclr, encodeZ_eq_iff.2 ⟨field h rfl, field h rfl⟩⟩,
      fun h => ⟨.clmul _ _, encodeRAB_eq_iff.2 ⟨field h rfl, rfl, rfl, field h rfl, field h rfl⟩⟩,
      fun h => ⟨.clmac _ _, encodeRAB_eq_iff.2 ⟨field h rfl, rfl, rfl, field h rfl, field h rfl⟩⟩,
      fun h => ⟨.ared _, encodeR1_eq_iff.2 ⟨field h rfl, rfl, field h rfl⟩⟩,
      fun h => ⟨.agetl, encodeZ_eq_iff.2 ⟨field h rfl, field h rfl⟩⟩,
      fun h => ⟨.ageth, encodeZ_eq_iff.2 ⟨field h rfl, field h rfl⟩⟩,
      nofun⟩
  -- families 0x3_ to 0x6_
  · exact ⟨fun h => ⟨.lifti _ _, encodeI8_eq_iff.2 ⟨field h rfl, rfl, rfl, field h rfl⟩⟩,
      fun h => ⟨.vlift _ _, encodeR2_eq_iff.2 ⟨field h rfl, rfl, rfl, field h rfl⟩⟩,
      fun h => ⟨.pgen _ _, encodeI_eq_iff.2 ⟨field h rfl, rfl, rfl, field h rfl⟩⟩,
      fun h => ⟨.proots _ _, encodeR2_eq_iff.2 ⟨field h rfl, rfl, rfl, field h rfl⟩⟩,
      fun h => ⟨.peval _ _ _, encodeR3_eq_iff.2 ⟨field h rfl, rfl, rfl, rfl, field h rfl⟩⟩,
      fun h => ⟨.lpre _ _, encodeR2_eq_iff.2 ⟨field h rfl, rfl, rfl, field h rfl⟩⟩,
      fun h => ⟨.lint _ _ _, encodeR3_eq_iff.2 ⟨field h rfl, rfl, rfl, rfl, field h rfl⟩⟩,
      fun h => ⟨.vadd _ _ _, encodeR3_eq_iff.2 ⟨field h rfl, rfl, rfl, rfl, field h rfl⟩⟩,
      fun h => ⟨.vscale _ _ _, encodeR3_eq_iff.2 ⟨field h rfl, rfl, rfl, rfl, field h rfl⟩⟩,
      fun h => ⟨.vdot _ _ _, encodeR3_eq_iff.2 ⟨field h rfl, rfl, rfl, rfl, field h rfl⟩⟩,
      fun h => ⟨.vconv _ _ _, encodeR3_eq_iff.2 ⟨field h rfl, rfl, rfl, rfl, field h rfl⟩⟩,
      nofun⟩

/-! ## The decoder and the opcode map agree -/

/-- Settles O3: both sides say that the word is the word of a command. -/
theorem decodeAcceptsExactlyTheLegalWords : Obligations.DecodeAcceptsExactlyTheLegalWords := by
  intro w
  rw [legalWord, List.any_eq_true]
  constructor
  · rintro ⟨i, hi⟩
    obtain ⟨r, hr, -, hsel⟩ := encode_selects_row i
    exact ⟨r, hr, encodeOfDecode w i hi ▸ hsel⟩
  · rintro ⟨r, hr, hsel⟩
    obtain ⟨i, rfl⟩ := exists_encode_of_selects r hr hsel
    exact ⟨i, decodeOfEncode i⟩

/-- Settles O5: each word is that of its command, by evaluation, and decodes to it (O1). -/
theorem wordsOfTheSpecDecode : Obligations.WordsOfTheSpecDecode :=
  ⟨decodeOfEncode (.emul 2 0 1), decodeOfEncode (.eld 3 1 2), decodeOfEncode (.mwb 0x0100 0x8D),
    decodeOfEncode (.clmul 8 9), decodeOfEncode (.lifti 2 0x53), decodeOfEncode (.pgen 4 300),
    decodeOfEncode (.lint 7 6 8), decodeOfEncode (.vscale 2 0 11)⟩

end Sys2Proof

/-! What a command word does at the port (spec/30_encoding.md R45 to R52, spec/60_exceptions.md R156): illegal words, the
configuration check, and the form of every response. -/

namespace Sys2Proof.Machine

/-! ## One word at the port -/

theorem decode_error_of_illegal {w : Word} (h : legalWord w = false) : ∃ x, decode w = .error x := by
  cases hd : decode w with
  | error x => exact ⟨x, rfl⟩
  | ok i => exact absurd ((decodeAcceptsExactlyTheLegalWords w).1 ⟨i, hd⟩) (by simp [h])

/-- Settles O6: the next event is taken and its word decoded. -/
theorem stepRunsTheDecodedCommand : Obligations.StepRunsTheDecodedCommand :=
  fun _ _ _ _ hp hd => (step_event hp).trans (execWord_of_ok hd _)

theorem illegalCommand_of_running {s : State} (h : s.err = 0) (w : Word) :
    illegalCommand w s = s.raise w .illegalCommand := whenRunning_of_running h _

/-- Settles O7: an illegal word does not decode, and a unit that is not faulted then raises. -/
theorem illegalWordRaisesIllegalCommand : Obligations.IllegalWordRaisesIllegalCommand := by
  intro s w rest hp herr hw
  obtain ⟨x, hx⟩ := decode_error_of_illegal hw
  rw [step_event hp, execEvent, execWord_of_error hx]
  exact congrArg _ (illegalCommand_of_running (s := { s with pending := rest }) herr w)

/-! ## The configuration check (R64) -/

/-- The commands of family 0x0_, the only ones that run without a configuration (R50, column "cfg"). -/
def runsUnconfigured : Instr → Bool
  | .nop => true
  | .cfg _ => true
  | .stat => true
  | .rdecmd => true
  | .clrerr => true
  | .mwb _ _ => true
  | .mrb _ => true
  | .dbase _ _ => true
  | .dlen _ _ => true
  | .dget _ => true
  | _ => false

/-- A row is marked cfg when its mnemonic is not of family 0x0_ (R50). -/
theorem OpcodeRow.needsCfg_eq : ∀ r ∈ opcodeRows, r.needsCfg = !(systemRows.map (·.mnemonic)).contains r.mnemonic := by
  decide

theorem contains_mnemonic (i : Instr) :
    (systemRows.map (·.mnemonic)).contains i.mnemonic = runsUnconfigured i := by
  cases i <;> rfl

/-- The row that selects a command's word is marked cfg exactly when the command needs a configuration. -/
theorem needsCfg_of_selects {i : Instr} {r : OpcodeRow} (hr : r ∈ opcodeRows) (h : r.selects (encode i) = true) :
    r.needsCfg = !runsUnconfigured i := by
  obtain ⟨r', hr', hname, hsel⟩ := encode_selects_row i
  obtain rfl : r = r' := atMostOneRowSelectsAWord _ _ _ hr hr' h hsel
  rw [OpcodeRow.needsCfg_eq r hr, hname, contains_mnemonic]

/-- Every command outside family 0x0_ makes the configuration check before anything else (R52, R64). -/
theorem exec_eq_whenConfigured {i : Instr} (h : runsUnconfigured i = false) (s : State) :
    ∃ k, exec i s = .next (whenConfigured i s k) := by
  cases i with
  | nop | cfg | stat | rdecmd | clrerr | mwb | mrb | dbase | dlen | dget => cases h
  | _ => exact ⟨_, rfl⟩

/-- No command of family 0x0_ raises `Unconfigured`. -/
theorem exec_err_ne_unconfigured {i : Instr} (h : runsUnconfigured i = true) {s : State} (herr : s.err = 0) :
    ∃ t, exec i s = .next t ∧ t.err ≠ ErrorKind.unconfigured.code := by
  have hkept : s.err ≠ ErrorKind.unconfigured.code := by rw [herr]; decide
  have hbounds : ErrorKind.bounds.code ≠ ErrorKind.unconfigured.code := by decide
  cases i with
  | stat | rdecmd => exact ⟨_, rfl, hkept⟩
  | clrerr => exact ⟨_, rfl, (by decide : (0 : BitVec 4) ≠ _)⟩
  | nop | dbase | dlen | dget => exact ⟨_, rfl, by rwa [whenRunning_of_running herr]⟩
  | cfg lam =>
    refine ⟨_, rfl, ?_⟩
    rw [whenRunning_of_running herr]
    split
    · exact (by decide : ErrorKind.unsupportedConfig.code ≠ ErrorKind.unconfigured.code)
    · exact hkept
  | mwb | mrb =>
    refine ⟨_, rfl, ?_⟩
    rw [whenRunning_of_running herr]
    split_ifs
    · exact hbounds
    · exact hkept
  | _ => cases h

/-- Settles O13: the marked rows are those of the commands that make the check. -/
theorem unconfiguredRaisedExactlyByTheMarkedRows : Obligations.UnconfiguredRaisedExactlyByTheMarkedRows := by
  intro i r s hr hsel herr hlambda
  rw [needsCfg_of_selects hr hsel, Bool.not_eq_true', Bool.not_eq_false']
  refine ⟨fun hi => ?_, fun hi => exec_err_ne_unconfigured hi herr⟩
  obtain ⟨k, hk⟩ := exec_eq_whenConfigured hi s
  rw [Raises, hk, whenConfigured_of_unset herr hlambda]
  rfl

/-! ## Responses (R45, R156) -/

/-- The state `t` holds an answer to the command `i`: a code 0 to 8, and data 0 unless the code is 0 and `i` returns data. -/
def Answers (i : Instr) (t : State) : Prop :=
  ∃ r, t.response = some r ∧ r.code.toNat ≤ 8 ∧ (r.code ≠ 0 → r.rdata = 0) ∧ (returnsData i = false → r.rdata = 0)

namespace Answers

variable {i : Instr} {s t : State}

theorem ok : Answers i t.ok := ⟨_, rfl, Nat.zero_le _, fun _ => rfl, fun _ => rfl⟩

theorem data (hi : returnsData i = true) (x : BitVec 64) : Answers i (t.respond 0 x) :=
  ⟨_, rfl, Nat.zero_le _, fun h => absurd rfl h, fun h => by simp [hi] at h⟩

theorem faulted : Answers i (t.respond faultedCode 0) := ⟨_, rfl, Nat.le_refl _, fun _ => rfl, fun _ => rfl⟩

theorem raised (x : ErrorKind) : Answers i (t.raiseBy i x) :=
  ⟨_, rfl, Nat.le_succ_of_le x.code_le, fun _ => rfl, fun _ => rfl⟩

theorem of_whenRunning {k : State} (h : Answers i k) : Answers i (whenRunning s k) := by
  rw [whenRunning]
  split_ifs
  · exact h
  · exact faulted

theorem of_whenConfigured {k : Width → State} (h : ∀ w, Answers i (k w)) : Answers i (whenConfigured i s k) := by
  rcases whenConfigured_cases i s k with ⟨-, hk⟩ | ⟨-, -, hk⟩ | ⟨w, -, -, hk⟩ <;> rw [hk]
  · exact faulted
  · exact raised _
  · exact h w

theorem of_check {c : Prop} [Decidable c] {x : ErrorKind} {k : State} (h : Answers i k) :
    Answers i (if c then s.raiseBy i x else k) := by
  split_ifs
  · exact raised x
  · exact h

end Answers

theorem exec_answers (i : Instr) (s : State) : ∃ t, exec i s = .next t ∧ Answers i t := by
  cases i with
  -- family 0x0_
  | nop | dbase | dlen => exact ⟨_, rfl, .of_whenRunning .ok⟩
  | cfg lam =>
    refine ⟨_, rfl, .of_whenRunning ?_⟩
    split
    · exact .raised _
    · exact .ok
  | stat | rdecmd => exact ⟨_, rfl, .data rfl _⟩
  | clrerr => exact ⟨_, rfl, .ok⟩
  | mwb => exact ⟨_, rfl, .of_whenRunning (.of_check .ok)⟩
  | mrb => exact ⟨_, rfl, .of_whenRunning (.of_check (.data rfl _))⟩
  | dget => exact ⟨_, rfl, .of_whenRunning (.data rfl _)⟩
  -- registers and the accumulator
  | eget | ecmp | agetl | ageth => exact ⟨_, rfl, .of_whenConfigured fun _ => .data rfl _⟩
  | eli | elis | emov | eadd | emul | aclr | clmul | clmac | ared | lifti =>
    exact ⟨_, rfl, .of_whenConfigured fun _ => .ok⟩
  | einv => exact ⟨_, rfl, .of_whenConfigured fun _ => .of_check .ok⟩
  -- one item
  | eld | est =>
    refine ⟨_, rfl, .of_whenConfigured fun _ => ?_⟩
    split
    · exact .raised _
    · exact .ok
  -- whole vectors, by the number of checks
  | pgen | peval => exact ⟨_, rfl, .of_whenConfigured fun _ => .of_check .ok⟩
  | vlift | proots | vscale => exact ⟨_, rfl, .of_whenConfigured fun _ => .of_check (.of_check .ok)⟩
  | lpre | vdot | vconv => exact ⟨_, rfl, .of_whenConfigured fun _ => .of_check (.of_check (.of_check .ok))⟩
  | lint | vadd => exact ⟨_, rfl, .of_whenConfigured fun _ => .of_check (.of_check (.of_check (.of_check .ok)))⟩

/-- Settles O12: every way a command can end is an answer of the stated form. -/
theorem responsesCarryDataOnlyWhereStated : Obligations.ResponsesCarryDataOnlyWhereStated := by
  intro i s t hexec
  obtain ⟨u, hu, hanswer⟩ := exec_answers i s
  obtain rfl : u = t := Host.Outcome.next.inj (hu.symm.trans hexec)
  exact hanswer

end Sys2Proof.Machine

/-! Wide constants (spec/30_encoding.md R55) and the commands that store a vector item by item (spec/44_polynomial.md,
spec/46_vector.md). The one idea of the second is `State.storesVec`: what `WriteVec` leaves, once the result fits in
memory. -/

namespace Sys2Proof.Machine

/-! ## `ELI` and `ELIS` in a unit that is ready (R80, R81) -/

section

variable {s t u : State} {w : Width} {d : EReg}

theorem exec_eli_of_ready (h : s.Ready w) (d : EReg) (imm : Half) :
    exec (.eli d imm) s = .next (s.setElem d imm.toNat).ok :=
  congrArg _ (whenConfigured_of_ready h.left h.right _ _)

theorem exec_elis_of_ready (h : s.Ready w) (d : EReg) (imm : Half) :
    exec (.elis d imm) s = .next (s.setElem d (((s.elem d <<< 16) ||| imm.toNat) &&& w.mask)).ok :=
  congrArg _ (whenConfigured_of_ready h.left h.right _ _)

theorem execAll_cons {i : Instr} (is : List Instr) (h : exec i s = .next t) : execAll (i :: is) s = execAll is t := by
  rw [execAll, h]

theorem OnlyElem.trans (h : OnlyElem d s t) (h' : OnlyElem d t u) : OnlyElem d s u := by
  obtain ⟨⟨hlambda, herr, hecmd, hconfig, hepoch, hpending⟩, heq, hacc, helem, hdesc, hbyte⟩ := h
  obtain ⟨⟨hlambda', herr', hecmd', hconfig', hepoch', hpending'⟩, heq', hacc', helem', hdesc', hbyte'⟩ := h'
  exact ⟨⟨hlambda'.trans hlambda, herr'.trans herr, hecmd'.trans hecmd, hconfig'.trans hconfig, hepoch'.trans hepoch,
    hpending'.trans hpending⟩, heq'.trans heq, hacc'.trans hacc, fun i hi => (helem' i hi).trans (helem i hi),
    fun i => ⟨(hdesc' i).1.trans (hdesc i).1, (hdesc' i).2.trans (hdesc i).2⟩, fun a => (hbyte' a).trans (hbyte a)⟩

/-- `t` follows from `s`, in a ready unit, by commands that load the number `v` in `E[d]`. -/
structure Loads (w : Width) (d : EReg) (v : Nat) (s t : State) : Prop where
  ready : t.Ready w
  response : t.response = some ⟨0, 0⟩
  elem : t.elem d = v
  frame : OnlyElem d s t

/-- `ELI` of the top chunk of a constant loads that chunk (R80). -/
theorem exec_eli_loads (h : s.Ready w) (d : EReg) {v : Nat} (hv : v < 2 ^ 16) :
    ∃ t, exec (.eli d (BitVec.ofNat 16 v)) s = .next t ∧ Loads w d v s t := by
  have hchunk : (BitVec.ofNat 16 v).toNat = v := Nat.mod_eq_of_lt hv
  exact ⟨_, exec_eli_of_ready h d _, h, rfl, (s.elem_setElem_same d (Width.half_lt w _)).trans hchunk,
    s.onlyElem_setElem d _⟩

/-- A number is its chunks from bit 16 on, with its low 16 bits shifted in. -/
theorem shiftRight_shiftLeft_or_low (v : Nat) : (v >>> 16) <<< 16 ||| v % 2 ^ 16 = v := by
  rw [← Nat.shiftLeft_add_eq_or_of_lt (Nat.mod_lt v (Nat.two_pow_pos 16)), Nat.shiftLeft_eq, Nat.shiftRight_eq_div_pow,
    Nat.div_add_mod']

/-- `ELIS` of the low chunk of `v`, where the register holds the chunks above it, leaves the low n bits of `v` (R81). -/
theorem exec_elis_loads {v : Nat} (h : Loads w d (v >>> 16) s t) :
    ∃ u, exec (.elis d (BitVec.ofNat 16 v)) t = .next u ∧ Loads w d (v % 2 ^ w.n) s u := by
  refine ⟨_, exec_elis_of_ready h.ready d _, h.ready, rfl, ?_, h.frame.trans (t.onlyElem_setElem d _)⟩
  rw [h.elem, BitVec.toNat_ofNat, shiftRight_shiftLeft_or_low, Width.mask, Nat.and_two_pow_sub_one_eq_mod]
  exact t.elem_setElem_same d (Nat.mod_lt v (Nat.two_pow_pos _))

/-- Settles O30: the chunks go in from the highest down, and each stage holds the constant's chunks so far. -/
theorem wideConstantsLoadTheValue : Obligations.WideConstantsLoadTheValue := by
  intro d v w s h
  have h32 : 2 ^ 32 ≤ 2 ^ w.n := Nat.pow_le_pow_right (by decide) (by have := Width.n_cases w; omega)
  have chunk {k : Nat} (hv : v < 2 ^ (16 + k)) : v >>> k < 2 ^ 16 := by
    rw [Nat.shiftRight_eq_div_pow]
    exact Nat.div_lt_of_lt_mul (by rwa [← Nat.pow_add, Nat.add_comm])
  constructor
  · intro hv
    obtain ⟨t, ht, htop⟩ := exec_eli_loads h d (chunk (k := 16) hv)
    obtain ⟨u, hu, hall⟩ := exec_elis_loads htop
    rw [Nat.mod_eq_of_lt (Nat.lt_of_lt_of_le hv h32)] at hall
    exact ⟨u, (execAll_cons _ ht).trans (execAll_cons _ hu), hall.response, hall.elem, hall.frame⟩
  · intro hv
    have hmid : v >>> 16 < 2 ^ w.n := by rw [Nat.shiftRight_eq_div_pow]; omega
    obtain ⟨t, ht, htop⟩ := exec_eli_loads h d (chunk (k := 32) hv)
    rw [show v >>> 32 = v >>> 16 >>> 16 from Nat.shiftRight_add v 16 16] at htop
    obtain ⟨u, hu, htwo⟩ := exec_elis_loads htop
    rw [Nat.mod_eq_of_lt hmid] at htwo
    obtain ⟨x, hx, hall⟩ := exec_elis_loads htwo
    exact ⟨x, (execAll_cons _ ht).trans ((execAll_cons _ hu).trans (execAll_cons _ hx)), hall.response, hall.elem,
      hall.frame⟩

end

/-! ## A vector stored: what `WriteVec` leaves (R20, R36) -/

/-- A result that fits in memory has fewer items than `LEN` can count, since an item is at least four bytes (R2, R3). -/
theorem State.DestInRange.lt {s : State} {w : Width} {d : DReg} {count : Nat} (h : s.DestInRange w d count) :
    count < 2 ^ 16 := by
  have hmem := Config.memBytes_le s.config
  rcases h with h | h
  · omega
  · have : count * 4 ≤ count * w.bs := Nat.mul_le_mul_left _ (by have := Width.bs_cases w; omega)
    omega

/-- Answering leaves every vector as it is. -/
theorem State.readVec_ok (s : State) (w : Width) (i : DReg) : s.ok.readVec w i = s.readVec w i :=
  List.map_congr_left fun _ _ => State.memRead_congr fun _ _ _ => rfl

/-- `t` follows from `s` by a command that stored the vector `l` through `D[d]` and answered without data. -/
structure StoresVec (w : Width) (d : DReg) (l : List Nat) (s t : State) : Prop where
  response : t.response = some ⟨0, 0⟩
  len : t.len d = l.length
  items : t.readVec w d = l
  frame : OnlyVec w d l.length s t

theorem State.onlyVec_writeVec (s : State) (w : Width) (d : DReg) (l : List Nat) :
    OnlyVec w d l.length s (s.writeVec w d l).ok := by
  have hcontrol : SameControl s (s.writeVec w d l).ok := by simp [SameControl]
  exact ⟨hcontrol, s.writeVec_eq w d l, s.writeVec_acc w d l, State.elem_congr (s.writeVec_e w d l),
    fun i => s.base_writeVec w d i l, fun i hi => (s.len_writeVec w d i l).trans (if_neg hi),
    fun _ ha => State.byte_writeVec_outside ha⟩

theorem State.storesVec_writeVec {s : State} {w : Width} {d : DReg} {l : List Nat} (hd : s.DestInRange w d l.length)
    (hl : ∀ v ∈ l, v < 2 ^ w.n) : StoresVec w d l s (s.writeVec w d l).ok where
  response := rfl
  len := (s.len_writeVec w d d l).trans ((if_pos rfl).trans (Nat.mod_eq_of_lt hd.lt))
  items := ((s.writeVec w d l).readVec_ok w d).trans (s.readVec_writeVec hd.lt (Width.pow_bs w ▸ hl))
  frame := s.onlyVec_writeVec w d l

/-! ## The commands, their checks passed -/

section

variable {s : State} {w : Width} {d a b : DReg}

theorem exec_vlift_of_inRange (h : s.Ready w) (ha : s.InRange (s.base a) (s.len a) 1) (hd : s.DestInRange w d (s.len a)) :
    exec (.vlift d a) s = .next (s.writeVec w d ((s.readBytes a).map (lift s.config w))).ok := by
  rw [exec, execVlift, whenConfigured_of_ready h.left h.right, if_neg (not_not.2 ha), if_neg (not_not.2 hd)]

theorem exec_proots_of_inRange (h : s.Ready w) (ha : s.VecInRange w a) (hd : s.DestInRange w d (s.len a + 1)) :
    exec (.proots d a) s = .next (s.writeVec w d (polyFromRoots w (s.readVec w a))).ok := by
  rw [exec, execProots, whenConfigured_of_ready h.left h.right, if_neg (not_not.2 ha), if_neg (not_not.2 hd)]

theorem exec_vadd_of_inRange (h : s.Ready w) (hlen : s.len a = s.len b) (ha : s.VecInRange w a) (hb : s.VecInRange w b)
    (hd : s.DestInRange w d (s.len a)) :
    exec (.vadd d a b) s = .next (s.writeVec w d (List.zipWith gfAdd (s.readVec w a) (s.readVec w b))).ok := by
  rw [exec, execVadd, whenConfigured_of_ready h.left h.right, if_neg (not_not.2 hlen), if_neg (not_not.2 ha),
    if_neg (not_not.2 hb), if_neg (not_not.2 hd)]

theorem exec_vscale_of_inRange (h : s.Ready w) (c : EReg) (ha : s.VecInRange w a) (hd : s.DestInRange w d (s.len a)) :
    exec (.vscale d a c) s = .next (s.writeVec w d ((s.readVec w a).map fun x => gfMul w x (s.elem c))).ok := by
  rw [exec, execVscale, whenConfigured_of_ready h.left h.right, if_neg (not_not.2 ha), if_neg (not_not.2 hd)]

end

/-! ## The stored items are elements of the field -/

theorem mulByRoot_lt (w : Width) {p : List Nat} {r : Nat} (hp : ∀ v ∈ p, v < 2 ^ w.n) (hr : r < 2 ^ w.n) :
    ∀ v ∈ mulByRoot w p r, v < 2 ^ w.n := by
  have hzero : 0 < 2 ^ w.n := Nat.two_pow_pos _
  have hshift : ∀ v ∈ 0 :: p, v < 2 ^ w.n := List.forall_mem_cons.2 ⟨hzero, hp⟩
  have hpad : ∀ v ∈ p ++ [0], v < 2 ^ w.n := List.forall_mem_append.2 ⟨hp, by simp [hzero]⟩
  intro v hv
  obtain ⟨j, hj, rfl⟩ := List.mem_iff_getElem.1 hv
  simp only [mulByRoot, List.getElem_zipWith, List.getElem_map]
  exact gfAdd_lt (hshift _ (List.getElem_mem _)) (gfMul_lt w (hpad _ (List.getElem_mem _)) hr)

theorem polyFromRoots_lt (w : Width) {roots : List Nat} (h : ∀ v ∈ roots, v < 2 ^ w.n) :
    ∀ v ∈ polyFromRoots w roots, v < 2 ^ w.n := by
  have hone : ∀ v ∈ [1], v < 2 ^ w.n := by simpa using Width.one_lt_pow w
  rw [polyFromRoots]
  generalize [1] = p at hone ⊢
  induction roots generalizing p with
  | nil => exact hone
  | cons r roots ih =>
    obtain ⟨hr, hroots⟩ := List.forall_mem_cons.1 h
    exact ih hroots _ (mulByRoot_lt w hone hr)

/-- Settles O51: the coefficients, computed from the roots as they stand before the store, are what is stored. -/
theorem prootsWritesThePolynomialOfTheRoots : Obligations.ProotsWritesThePolynomialOfTheRoots := by
  intro d a w s h ha hd
  have hlen : (polyFromRoots w (s.readVec w a)).length = s.len a + 1 := by simp
  have hstore := State.storesVec_writeVec (hlen.symm ▸ hd) (polyFromRoots_lt w fun _ => State.readVec_lt)
  exact ⟨_, exec_proots_of_inRange h ha hd, hstore.response, hstore.len.trans hlen, hstore.items, hlen ▸ hstore.frame⟩

/-- Settles O57: the sums of the items as they stand before the store are what is stored. -/
theorem vaddWritesThePairwiseSums : Obligations.VaddWritesThePairwiseSums := by
  intro d a b w s h hab ha hb hd
  have hlen : (List.zipWith gfAdd (s.readVec w a) (s.readVec w b)).length = s.len a := by simp [← hab]
  have hlt : ∀ v ∈ List.zipWith gfAdd (s.readVec w a) (s.readVec w b), v < 2 ^ w.n := by
    intro v hv
    obtain ⟨j, hj, rfl⟩ := List.mem_iff_getElem.1 hv
    rw [List.getElem_zipWith]
    exact gfAdd_lt (State.readVec_lt (List.getElem_mem _)) (State.readVec_lt (List.getElem_mem _))
  have hstore := State.storesVec_writeVec (hlen.symm ▸ hd) hlt
  refine ⟨_, exec_vadd_of_inRange h hab ha hb hd, hstore.response, hstore.len.trans hlen, fun j hj => ?_,
    hlen ▸ hstore.frame⟩
  rw [hstore.items]
  simp [List.getD_eq_getElem?_getD, hj, hab ▸ hj, gfAdd]

/-- Settles O58: the products of the items as they stand before the store are what is stored. -/
theorem vscaleWritesTheScaledItems : Obligations.VscaleWritesTheScaledItems := by
  intro d a b w s h hb ha hd
  have hlen : ((s.readVec w a).map fun x => gfMul w x (s.elem b)).length = s.len a := by simp
  have hlt : ∀ v ∈ (s.readVec w a).map fun x => gfMul w x (s.elem b), v < 2 ^ w.n :=
    List.forall_mem_map.2 fun _ hx => gfMul_lt w (State.readVec_lt hx) hb
  have hstore := State.storesVec_writeVec (hlen.symm ▸ hd) hlt
  refine ⟨_, exec_vscale_of_inRange h b ha hd, hstore.response, hstore.len.trans hlen, fun j hj => ?_,
    hlen ▸ hstore.frame⟩
  rw [hstore.items]
  simp [List.getD_eq_getElem?_getD, hj]

end Sys2Proof.Machine

/-! The field of a configuration (spec/42_clmul_reduce.md R96 to R99, spec/41_element.md R76 to R79). The one idea: a number is
read as a polynomial over GF(2) (`bitPoly`) and then as its residue modulo `P_n` (`residue`). The datapath's operations
are those of the ring of residues, and numbers below 2^n have different residues, so that an identity of the ring is one
of the datapath. -/

namespace Sys2Proof.Machine

open Polynomial

/-! ## Numbers as polynomials over GF(2) (R4) -/

/-- The low `k` bits of `a` as a polynomial: bit i is the coefficient of X^i. -/
noncomputable def lowBitPoly (a k : Nat) : (ZMod 2)[X] := ∑ i ∈ Finset.range k, if a.testBit i then X ^ i else 0

/-- A number as a polynomial. -/
noncomputable def bitPoly (a : Nat) : (ZMod 2)[X] := lowBitPoly a (a.log2 + 1)

theorem lowBitPoly_succ (a k : Nat) : lowBitPoly a (k + 1) = lowBitPoly a k + if a.testBit k then X ^ k else 0 :=
  Finset.sum_range_succ _ k

theorem coeff_lowBitPoly (a k i : Nat) :
    (lowBitPoly a k).coeff i = if i < k ∧ a.testBit i = true then 1 else 0 := by
  have hterm : ∀ j, (if a.testBit j then X ^ j else 0 : (ZMod 2)[X]).coeff i =
      if i = j then (if a.testBit i then 1 else 0) else 0 := by
    intro j
    rcases eq_or_ne i j with rfl | hij
    · rw [if_pos rfl]
      split_ifs <;> simp
    · rw [if_neg hij]
      split_ifs <;> simp [coeff_X_pow, hij]
  simp only [lowBitPoly, finsetSum_coeff, hterm, Finset.sum_ite_eq, Finset.mem_range, ite_and]

theorem lt_log2_of_testBit {a i : Nat} (h : a.testBit i = true) : i < a.log2 + 1 := by
  by_contra hi
  have hlt : a < 2 ^ i := Nat.lt_of_lt_of_le Nat.lt_log2_self (Nat.pow_le_pow_right (by decide) (Nat.not_lt.1 hi))
  rw [Nat.testBit_lt_two_pow hlt] at h
  cases h

@[simp] theorem coeff_bitPoly (a i : Nat) : (bitPoly a).coeff i = if a.testBit i then 1 else 0 := by
  rw [bitPoly, coeff_lowBitPoly]
  exact if_congr (and_iff_right_of_imp lt_log2_of_testBit) rfl rfl

@[simp] theorem bitPoly_zero : bitPoly 0 = 0 := by ext i; simp

@[simp] theorem bitPoly_one : bitPoly 1 = 1 := by
  ext i
  rw [coeff_bitPoly, coeff_one]
  exact if_congr Nat.testBit_one_eq_true_iff_self_eq_zero rfl rfl

@[simp] theorem bitPoly_xor (a b : Nat) : bitPoly (a ^^^ b) = bitPoly a + bitPoly b := by
  ext i
  rw [coeff_add, coeff_bitPoly, coeff_bitPoly, coeff_bitPoly, Nat.testBit_xor]
  cases a.testBit i <;> cases b.testBit i <;> decide

@[simp] theorem bitPoly_shiftLeft (a k : Nat) : bitPoly (a <<< k) = bitPoly a * X ^ k := by
  ext i
  rw [coeff_mul_X_pow', coeff_bitPoly, coeff_bitPoly, Nat.testBit_shiftLeft]
  by_cases hk : k ≤ i <;> simp [hk]

theorem bitPoly_injective {a b : Nat} (h : bitPoly a = bitPoly b) : a = b := by
  apply Nat.eq_of_testBit_eq
  intro i
  have hi := congrArg (coeff · i) h
  simp only [coeff_bitPoly] at hi
  cases ha : a.testBit i <;> cases hb : b.testBit i <;> simp [ha, hb] at hi ⊢

/-- The carry-less product is the product of polynomials (R96). -/
@[simp] theorem bitPoly_clmul (a b : Nat) : bitPoly (clmul a b) = bitPoly a * bitPoly b := by
  have hbits : ∀ k, bitPoly (clmulBits a b k) = bitPoly a * lowBitPoly b k := by
    intro k
    induction k with
    | zero => simp [clmulBits, lowBitPoly]
    | succ k ih =>
      rw [clmulBits, bitPoly_xor, ih, lowBitPoly_succ, mul_add]
      split_ifs <;> simp
  rw [clmul_eq, hbits, ← bitPoly]

theorem degree_bitPoly_lt {a n : Nat} (h : a < 2 ^ n) : (bitPoly a).degree < n := by
  rw [degree_lt_iff_coeff_zero]
  intro i hi
  have hlt : a < 2 ^ i := Nat.lt_of_lt_of_le h (Nat.pow_le_pow_right (by decide) hi)
  rw [coeff_bitPoly, Nat.testBit_lt_two_pow hlt]
  rfl

/-! ## Residues modulo `P_n` -/

/-- The ring of polynomials over GF(2) modulo `P_n` (R2, R98). -/
abbrev Residues (w : Width) : Type := AdjoinRoot (bitPoly w.poly)

/-- The residue of a number. -/
noncomputable def residue (w : Width) (a : Nat) : Residues w := AdjoinRoot.mk (bitPoly w.poly) (bitPoly a)

section

variable (w : Width) (a b : Nat)

@[simp] theorem residue_zero : residue w 0 = 0 := by simp [residue]

@[simp] theorem residue_one : residue w 1 = 1 := by simp [residue]

@[simp] theorem residue_xor : residue w (a ^^^ b) = residue w a + residue w b := by simp [residue]

@[simp] theorem residue_gfAdd : residue w (gfAdd a b) = residue w a + residue w b := residue_xor w a b

@[simp] theorem residue_clmul : residue w (clmul a b) = residue w a * residue w b := by simp [residue]

@[simp] theorem residue_poly_shiftLeft (k : Nat) : residue w (w.poly <<< k) = 0 := by
  simp [residue]

/-- Reduction keeps the residue (R99). -/
@[simp] theorem residue_reduce (r : Nat) : residue w (reduce w r) = residue w r := by
  have hfrom : ∀ j r, residue w (reduceFrom w j r) = residue w r := by
    intro j
    induction j with
    | zero => exact fun _ => rfl
    | succ j ih =>
      intro r
      rw [reduceFrom, strict_eq, ih]
      split_ifs <;> simp
  rw [reduce, strict_eq, hfrom]

@[simp] theorem residue_gfMul : residue w (gfMul w a b) = residue w a * residue w b := by
  rw [gfMul, residue_reduce, residue_clmul]

theorem residue_gfPowLoop (fuel : Nat) {r e : Nat} (he : e < 2 ^ fuel) :
    residue w (gfPowLoop w fuel r a e) = residue w r * residue w a ^ e := by
  induction fuel generalizing r a e with
  | zero => simp [gfPowLoop, show e = 0 by omega]
  | succ fuel ih =>
    have hhalf : e / 2 < 2 ^ fuel := by rw [Nat.pow_succ] at he; omega
    simp only [gfPowLoop, strict_eq]
    split_ifs with hzero hodd
    · simp [hzero]
    · have he : e = 2 * (e / 2) + 1 := by omega
      rw [ih _ hhalf, residue_gfMul, residue_gfMul]
      conv_rhs => rw [he]
      ring
    · have he : e = 2 * (e / 2) := by omega
      rw [ih _ hhalf, residue_gfMul]
      conv_rhs => rw [he]
      ring

@[simp] theorem residue_gfPow (e : Nat) : residue w (gfPow w a e) = residue w a ^ e := by
  rw [gfPow, residue_gfPowLoop w a _ Nat.lt_log2_self, residue_one, one_mul]

variable {a b}

/-- Numbers below 2^n have different residues, because `P_n` has degree n. -/
theorem residue_injective (ha : a < 2 ^ w.n) (hb : b < 2 ^ w.n) (h : residue w a = residue w b) : a = b := by
  have hdvd : bitPoly w.poly ∣ bitPoly (a ^^^ b) := by
    rw [residue, residue, AdjoinRoot.mk_eq_mk, CharTwo.sub_eq_add, ← bitPoly_xor] at h
    exact h
  have hpoly : w.n ≤ (bitPoly w.poly).degree :=
    le_degree_of_ne_zero (by simp [Width.poly_testBit_n])
  have hzero : bitPoly (a ^^^ b) = 0 :=
    eq_zero_of_dvd_of_degree_lt hdvd (lt_of_lt_of_le (degree_bitPoly_lt (Nat.xor_lt_two_pow ha hb)) hpoly)
  exact Nat.xor_eq_zero_iff.1 (bitPoly_injective (hzero.trans bitPoly_zero.symm))

/-- The powers of an element, one multiplication at a time (R79). -/
theorem gfPow_succ (ha : a < 2 ^ w.n) (k : Nat) : gfPow w a (k + 1) = gfMul w (gfPow w a k) a :=
  residue_injective w (gfPow_lt w ha _) (gfMul_lt w (gfPow_lt w ha k) ha) (by simp [pow_succ])

theorem gfPow_zero : gfPow w a 0 = 1 := by simp [gfPow, gfPowLoop]

theorem gfPow_one (ha : a < 2 ^ w.n) : gfPow w a 1 = a :=
  residue_injective w (gfPow_lt w ha _) ha (by simp)

end

/-! ## The lifting table in closed form (R115, R116) -/

theorem gfSum_append (l l' : List Nat) : gfSum (l ++ l') = gfAdd (gfSum l) (gfSum l') := by
  induction l with
  | nil => simp [gfSum, gfAdd]
  | cons v l ih =>
    change gfAdd v (gfSum (l ++ l')) = _
    rw [ih]
    exact (Nat.xor_assoc _ _ _).symm

/-- The element with the low `m` bits of `b` as coefficients of powers of `g`. -/
def liftLow (w : Width) (g m b : Nat) : Nat :=
  gfSum ((List.range m).map fun j => if b.testBit j then gfPow w g j else 0)

theorem liftLow_eight (w : Width) (g b : Nat) : liftLow w g 8 b = liftClosed w g b := rfl

theorem liftLow_succ (w : Width) (g m b : Nat) :
    liftLow w g (m + 1) b = gfAdd (liftLow w g m b) (if b.testBit m then gfPow w g m else 0) := by
  rw [liftLow, List.range_succ, List.map_append, gfSum_append]
  simp [liftLow, gfSum, gfAdd]

/-- Bits from `m` on play no part. -/
theorem liftLow_add_two_pow (w : Width) (g m b : Nat) : liftLow w g m (2 ^ m + b) = liftLow w g m b := by
  refine congrArg gfSum (List.map_congr_left fun j hj => ?_)
  rw [Nat.testBit_two_pow_add_gt (List.mem_range.1 hj)]

/-- `t` is the table of the first `m` rounds of R116: its entry b is the closed form of b, for all b of m bits. -/
def IsLiftTable (w : Width) (g m : Nat) (t : List Nat) : Prop := t = (List.range (2 ^ m)).map (liftLow w g m)

/-- A round doubles the table: the upper half has bit m set. -/
theorem IsLiftTable.succ {w : Width} {g m : Nat} {t : List Nat} (h : IsLiftTable w g m t) :
    IsLiftTable w g (m + 1) (t ++ t.map fun x => gfAdd x (gfPow w g m)) := by
  rw [IsLiftTable] at h ⊢
  have hlow : ∀ b ∈ List.range (2 ^ m), liftLow w g (m + 1) b = liftLow w g m b := fun b hb => by
    rw [liftLow_succ, Nat.testBit_lt_two_pow (List.mem_range.1 hb)]
    simp [gfAdd]
  have hhigh : ∀ b ∈ List.range (2 ^ m), liftLow w g (m + 1) (2 ^ m + b) = gfAdd (liftLow w g m b) (gfPow w g m) :=
    fun b hb => by
      rw [liftLow_succ, liftLow_add_two_pow, Nat.testBit_two_pow_add_eq, Nat.testBit_lt_two_pow (List.mem_range.1 hb)]
      rfl
  rw [Nat.pow_succ, Nat.mul_two, List.range_add, List.map_append, List.map_congr_left hlow, List.map_map, h,
    List.map_map]
  exact congrArg _ (List.map_congr_left fun b hb => (hhigh b hb).symm)

/-- The rounds of R116 with the running power of the generator. -/
theorem IsLiftTable.rounds {w : Width} {g : Nat} (hg : g < 2 ^ w.n) (k : Nat) {m : Nat} {t : List Nat}
    (h : IsLiftTable w g m t) : IsLiftTable w g (m + k) (liftRounds w g k t (gfPow w g m)) := by
  induction k generalizing m t with
  | zero => exact h
  | succ k ih =>
    rw [liftRounds, strict_eq, ← gfPow_succ w hg, ← Nat.add_assoc, Nat.add_right_comm]
    exact ih h.succ

theorem liftTable_isLiftTable (c : Config) (w : Width) : IsLiftTable w (liftGen c w) 8 (liftTable c w) := by
  have hg := liftGen_lt c w
  have hstart : IsLiftTable w (liftGen c w) 1 [0, 1] := by
    simp [IsLiftTable, List.range_succ, liftLow, gfPow_zero, gfSum, gfAdd]
  have htable := hstart.rounds hg 7
  rwa [gfPow_one w hg] at htable

/-- Each entry of the table is the closed form of its byte (R115, R116). -/
theorem lift_eq_liftClosed (c : Config) (w : Width) {b : Nat} (hb : b < 256) :
    lift c w b = liftClosed w (liftGen c w) b := by
  have htable : liftTable c w = _ := liftTable_isLiftTable c w
  rw [lift, htable, List.getD_eq_getElem?_getD]
  simp [hb, liftLow_eight]

/-! ## `VLIFT` (R120) -/

/-- The items of a byte vector are the bytes from `BASE` on (R35). -/
theorem State.readBytes_eq (s : State) (i : DReg) :
    s.readBytes i = (List.range (s.len i)).map fun j => (s.byte (s.base i + j)).toNat := by
  simp [State.readBytes, State.readItems, State.memRead]

/-- Settles O48: the lifted bytes are stored, and each lifted byte is the closed form. -/
theorem vliftLiftsTheByteVector : Obligations.VliftLiftsTheByteVector := by
  intro d a w s h ha hd
  have hlen : ((s.readBytes a).map (lift s.config w)).length = s.len a := by simp
  have hlt : ∀ v ∈ (s.readBytes a).map (lift s.config w), v < 2 ^ w.n :=
    List.forall_mem_map.2 fun b _ => lift_lt s.config w b
  have hstore := State.storesVec_writeVec (hlen.symm ▸ hd) hlt
  refine ⟨_, exec_vlift_of_inRange h ha hd, hstore.response, hstore.items.trans ?_, hlen ▸ hstore.frame⟩
  rw [State.readBytes_eq, List.map_map]
  exact List.map_congr_left fun j _ => lift_eq_liftClosed s.config w (BitVec.isLt _)

end Sys2Proof.Machine

/-! Configuration, status, host memory and descriptor commands (spec/40_config_system.md). First what each command does in a
unit that is not faulted, one equation per outcome; the obligations then read the changed fields off these equations. -/

namespace Sys2Proof.Machine

/-! ## The commands in a unit that is not faulted (R52) -/

section

variable {s : State}

theorem exec_nop_of_running (h : s.err = 0) : exec .nop s = .next s.ok :=
  congrArg _ (whenRunning_of_running h _)

theorem exec_cfg_of_supported (h : s.err = 0) {lam : Half} {w : Width} (hw : widthOf lam.toNat = some w) :
    exec (.cfg lam) s = .next (s.configure w).ok := by
  rw [exec, execCfg, whenRunning_of_running h, hw]

theorem exec_cfg_of_unsupported (h : s.err = 0) {lam : Half} (hw : widthOf lam.toNat = none) :
    exec (.cfg lam) s = .next (s.raiseBy (.cfg lam) .unsupportedConfig) := by
  rw [exec, execCfg, whenRunning_of_running h, hw]

theorem exec_mwb_of_inside (h : s.err = 0) {addr : Half} (ha : addr.toNat < s.config.memBytes) (b : Byte) :
    exec (.mwb addr b) s = .next (s.setByte addr.toNat b).ok := by
  rw [exec, execMwb, whenRunning_of_running h, if_neg (Nat.not_le.2 ha)]

theorem exec_mwb_of_outside (h : s.err = 0) {addr : Half} (ha : s.config.memBytes ≤ addr.toNat) (b : Byte) :
    exec (.mwb addr b) s = .next (s.raiseBy (.mwb addr b) .bounds) := by
  rw [exec, execMwb, whenRunning_of_running h, if_pos ha]

theorem exec_mrb_of_inside (h : s.err = 0) {addr : Half} (ha : addr.toNat < s.config.memBytes) :
    exec (.mrb addr) s = .next (s.okData (s.byte addr.toNat).toNat) := by
  rw [exec, execMrb, whenRunning_of_running h, if_neg (Nat.not_le.2 ha)]

theorem exec_mrb_of_outside (h : s.err = 0) {addr : Half} (ha : s.config.memBytes ≤ addr.toNat) :
    exec (.mrb addr) s = .next (s.raiseBy (.mrb addr) .bounds) := by
  rw [exec, execMrb, whenRunning_of_running h, if_pos ha]

theorem exec_dbase_of_running (h : s.err = 0) (d : DReg) (v : Half) : exec (.dbase d v) s = .next (s.setBase d v).ok :=
  congrArg _ (whenRunning_of_running h _)

theorem exec_dlen_of_running (h : s.err = 0) (d : DReg) (v : Half) : exec (.dlen d v) s = .next (s.setLen d v).ok :=
  congrArg _ (whenRunning_of_running h _)

theorem exec_dget_of_running (h : s.err = 0) (d : DReg) :
    exec (.dget d) s = .next (s.okData ((s.len d <<< 16) ||| s.base d)) :=
  congrArg _ (whenRunning_of_running h _)

end

/-! ## Widths, bytes and descriptors -/

/-- The values of λ that select no width are those other than 4, 5 and 6 (R2, R61). -/
theorem widthOf_eq_none {lam : Nat} : widthOf lam = none ↔ lam ≠ 4 ∧ lam ≠ 5 ∧ lam ≠ 6 := by
  unfold widthOf
  split_ifs <;> simp [*]

/-- Configuration clears every element register (R61). -/
theorem State.elem_configure (s : State) (w : Width) (i : EReg) : (s.configure w).elem i = 0 := by
  simp [State.elem]

/-- One byte stored is a memory write of one byte (R32). -/
theorem State.setByte_eq_memWrite (s : State) (a : Nat) (b : Byte) : s.setByte a b = s.memWrite a 1 b.toNat := by
  simp [State.memWrite]

/-- `LEN` goes in above the 16 bits of `BASE`, so the two do not overlap (R70). -/
theorem State.len_or_base_eq (s : State) (d : DReg) : (s.len d <<< 16) ||| s.base d = s.len d * 2 ^ 16 + s.base d := by
  rw [← Nat.shiftLeft_add_eq_or_of_lt (s.base_lt d), Nat.shiftLeft_eq]

/-- Data narrower than the response goes in zero-extended (R63, R67). -/
theorem State.okData_toNat (s : State) {n : Nat} (x : BitVec n) : s.okData x.toNat = s.respond 0 (x.setWidth 64) := by
  rw [State.okData, BitVec.ofNat_toNat]

/-! ## The obligations -/

/-- Settles O24: λ selects a width or none, and each has its outcome. -/
theorem cfgSelectsTheFieldAndClears : Obligations.CfgSelectsTheFieldAndClears := by
  intro lam s herr
  constructor
  · intro w hw
    exact ⟨_, exec_cfg_of_supported herr (widthOf_eq_some.2 hw), rfl, rfl, s.elem_configure w, rfl, rfl,
      fun _ => ⟨rfl, rfl⟩, fun _ => rfl, rfl, rfl, rfl, rfl⟩
  · intro h4 h5 h6
    have toNat_ne {v : Half} (hv : lam ≠ v) : lam.toNat ≠ v.toNat := BitVec.toNat_ne_iff_ne.2 hv
    exact exec_cfg_of_unsupported herr (widthOf_eq_none.2 ⟨toNat_ne h4, toNat_ne h5, toNat_ne h6⟩)

/-- Settles O26: the address is inside or past the end, and the stored byte is a memory write of length 1. -/
theorem hostByteAccessesComplete : Obligations.HostByteAccessesComplete := by
  intro addr b s herr
  refine ⟨fun hin => ⟨?write, ?read⟩, fun hout => ⟨exec_mwb_of_outside herr hout b, exec_mrb_of_outside herr hout⟩⟩
  case write =>
    refine ⟨_, exec_mwb_of_inside herr hin b, rfl, s.byte_setByte_same addr.toNat b, ?_⟩
    rw [State.setByte_eq_memWrite]
    exact s.onlyBytes_memWrite addr.toNat 1 b.toNat
  case read =>
    rw [exec_mrb_of_inside herr hin, State.okData_toNat]
    rfl

/-- Settles O23: `NOP` needs a unit that is not faulted, the other two run in every state. -/
theorem nopRdecmdClrerrComplete : Obligations.NopRdecmdClrerrComplete := by
  intro s
  have hrdecmd : exec .rdecmd s = .next (s.respond 0 (s.ecmd.setWidth 64)) := congrArg _ (s.okData_toNat s.ecmd)
  exact ⟨exec_nop_of_running, hrdecmd, rfl⟩

/-- Settles O27: each command is one descriptor update. -/
theorem dbaseAndDlenWriteOneField : Obligations.DbaseAndDlenWriteOneField := by
  intro d v s herr
  constructor
  · exact ⟨_, exec_dbase_of_running herr d v, rfl, (s.base_setBase d d v).trans (if_pos rfl),
      fun i hi => (s.base_setBase d i v).trans (if_neg hi), fun i => s.len_setBase d i v,
      ⟨rfl, rfl, rfl, rfl, rfl, rfl⟩, rfl, rfl, fun _ => rfl, fun _ => rfl⟩
  · exact ⟨_, exec_dlen_of_running herr d v, rfl, (s.len_setLen d d v).trans (if_pos rfl),
      fun i hi => (s.len_setLen d i v).trans (if_neg hi), fun i => s.base_setLen d i v,
      ⟨rfl, rfl, rfl, rfl, rfl, rfl⟩, rfl, rfl, fun _ => rfl, fun _ => rfl⟩

/-- Settles O28: the two fields do not overlap, and their sum fits the response. -/
theorem dgetReturnsLenAndBase : Obligations.DgetReturnsLenAndBase := by
  intro d s herr
  have hbase := s.base_lt d
  have hlen := s.len_lt d
  refine ⟨_, exec_dget_of_running herr d, ?_⟩
  rw [State.len_or_base_eq, BitVec.toNat_ofNat]
  omega

end Sys2Proof.Machine

/-! Element arithmetic (spec/41_element.md). The one idea: the moduli pass Rabin's test of irreducibility, which the
datapath itself can run, so the residues modulo `P_n` are a field, and its laws are those of the numbers below 2^n. -/

namespace Sys2Proof.Machine

open Polynomial

/-! ## Rabin's test, run on the datapath (R98) -/

/-- The degrees n / q, for q the prime factors of n. -/
def subDegrees : Width → List Nat
  | .w32 => [16]
  | .w40 => [20, 8]
  | .w48 => [24, 16]

/-- Every proper divisor of n divides one of them. -/
theorem exists_subDegree {w : Width} {k : Nat} (hk : k ∣ w.n) (hne : k ≠ w.n) : ∃ m ∈ subDegrees w, k ∣ m := by
  have hall : ∀ k ≤ w.n, k ∣ w.n → k ≠ w.n → ∃ m ∈ subDegrees w, k ∣ m := by cases w <;> decide
  exact hall k (Nat.le_of_dvd (Width.n_pos w) hk) hk hne

/-- Squaring x, which is the number 2, n times gives x back. -/
theorem gfPow_x_n (w : Width) : gfPow w 2 (2 ^ w.n) = 2 := by cases w <;> decide

/-- The sum of x and of what squaring it m times gives. -/
def orbitSum (w : Width) (m : Nat) : Nat := gfAdd (gfPow w 2 (2 ^ m)) 2

/-- For m = n / q the sum is invertible, so squaring x m times does not give x back in any field that is a quotient. -/
theorem orbitSum_mul_inv (w : Width) : ∀ m ∈ subDegrees w, gfMul w (orbitSum w m) (gfInv w (orbitSum w m)) = 1 := by
  cases w <;> decide

/-! ## The modulus is irreducible -/

/-- In the field of 2^k elements, squaring k times gives every element back. -/
theorem pow_two_pow_natDegree {f : (ZMod 2)[X]} [Fact (Irreducible f)] (y : AdjoinRoot f) : y ^ 2 ^ f.natDegree = y := by
  have hf : f ≠ 0 := (Fact.out : Irreducible f).ne_zero
  have : Module.Finite (ZMod 2) (AdjoinRoot f) := (AdjoinRoot.powerBasis hf).finite
  have : Finite (AdjoinRoot f) := Module.finite_of_finite (ZMod 2)
  let _ : Fintype (AdjoinRoot f) := Fintype.ofFinite _
  have hcard : Fintype.card (AdjoinRoot f) = 2 ^ f.natDegree := by
    rw [← Nat.card_eq_fintype_card, Module.natCard_eq_pow_finrank (K := ZMod 2), Nat.card_zmod,
      (AdjoinRoot.powerBasis hf).finrank, AdjoinRoot.powerBasis_dim]
  rw [← hcard, FiniteField.pow_card]

section

variable {w : Width} {K : Type*} [CommRing K] (φ : Residues w →+* K)

theorem map_x_pow_n : φ (residue w 2) ^ 2 ^ w.n = φ (residue w 2) := by
  rw [← map_pow, ← residue_gfPow, gfPow_x_n]

/-- A hom keeps the invertible sum of the test invertible, so it is not 0. -/
theorem map_x_pow_ne [Nontrivial K] {m : Nat} (hm : m ∈ subDegrees w) :
    φ (residue w 2) ^ 2 ^ m ≠ φ (residue w 2) := by
  intro hfix
  have hsum : φ (residue w (orbitSum w m)) = 0 := by
    rw [orbitSum, residue_gfAdd, residue_gfPow, map_add, map_pow, hfix, ← map_add, ← residue_xor, Nat.xor_self,
      residue_zero, map_zero]
  have hone := congrArg (fun a => φ (residue w a)) (orbitSum_mul_inv w m hm)
  simp only [residue_gfMul, map_mul, hsum, zero_mul, residue_one, map_one] at hone
  exact zero_ne_one hone

end

theorem isPeriodicPt_sq_iff {M : Type*} [Monoid M] {x : M} {k : Nat} :
    Function.IsPeriodicPt (· ^ 2) k x ↔ x ^ 2 ^ k = x := by
  rw [Function.IsPeriodicPt, Function.IsFixedPt, pow_iterate]

/-- An irreducible factor of `P_n` has degree n at least: squaring gives x back in its field after n steps and after as many
as its degree, so after as many as their greatest common divisor, and by the test that is n. -/
theorem n_le_natDegree_of_dvd {w : Width} {f : (ZMod 2)[X]} (hf : Irreducible f) (hdvd : f ∣ bitPoly w.poly) :
    w.n ≤ f.natDegree := by
  have : Fact (Irreducible f) := ⟨hf⟩
  let φ : Residues w →+* AdjoinRoot f := AdjoinRoot.algHomOfDvd (ZMod 2) (bitPoly w.poly) f hdvd
  have hn : Function.IsPeriodicPt (· ^ 2) w.n (φ (residue w 2)) := isPeriodicPt_sq_iff.2 (map_x_pow_n φ)
  have hdeg : Function.IsPeriodicPt (· ^ 2) f.natDegree (φ (residue w 2)) :=
    isPeriodicPt_sq_iff.2 (pow_two_pow_natDegree _)
  have hgcd : f.natDegree.gcd w.n = w.n := by
    by_contra hne
    obtain ⟨m, hm, hdiv⟩ := exists_subDegree (Nat.gcd_dvd_right f.natDegree w.n) hne
    exact map_x_pow_ne φ hm (isPeriodicPt_sq_iff.1 ((hdeg.gcd hn).trans_dvd hdiv))
  exact Nat.le_of_dvd hf.natDegree_pos (hgcd ▸ Nat.gcd_dvd_left _ _)

/-- The degree of `P_n` (R98). -/
theorem natDegree_poly (w : Width) : (bitPoly w.poly).natDegree = w.n := by
  have hcoeff : (bitPoly w.poly).coeff w.n ≠ 0 := by simp [Width.poly_testBit_n]
  have hne : bitPoly w.poly ≠ 0 := fun h => hcoeff (by rw [h, coeff_zero])
  have hlt := (natDegree_lt_iff_degree_lt hne).2 (degree_bitPoly_lt (Width.poly_lt w))
  exact Nat.le_antisymm (Nat.lt_succ_iff.1 hlt) (le_natDegree_of_ne_zero hcoeff)

/-- `P_n` is irreducible (R98). -/
theorem irreducible_poly (w : Width) : Irreducible (bitPoly w.poly) := by
  have hpos : 0 < (bitPoly w.poly).natDegree := natDegree_poly w ▸ Width.n_pos w
  obtain ⟨f, hf, hdvd⟩ := exists_irreducible_of_natDegree_pos hpos
  refine (associated_of_dvd_of_natDegree_le hdvd (ne_zero_of_natDegree_gt hpos) ?_).irreducible hf
  rw [natDegree_poly]
  exact n_le_natDegree_of_dvd hf hdvd

/-! ## The laws of the field (R76 to R78, R90) -/

section

variable (w : Width) {a b c : Nat}

theorem residue_eq_zero_iff (ha : a < 2 ^ w.n) : residue w a = 0 ↔ a = 0 := by
  refine ⟨fun h => residue_injective w ha (Nat.two_pow_pos _) (h.trans (residue_zero w).symm), ?_⟩
  rintro rfl
  exact residue_zero w

theorem gfMul_comm (ha : a < 2 ^ w.n) (hb : b < 2 ^ w.n) : gfMul w a b = gfMul w b a :=
  residue_injective w (gfMul_lt w ha hb) (gfMul_lt w hb ha) (by simp [mul_comm])

theorem gfMul_assoc (ha : a < 2 ^ w.n) (hb : b < 2 ^ w.n) (hc : c < 2 ^ w.n) :
    gfMul w (gfMul w a b) c = gfMul w a (gfMul w b c) :=
  residue_injective w (gfMul_lt w (gfMul_lt w ha hb) hc) (gfMul_lt w ha (gfMul_lt w hb hc)) (by simp [mul_assoc])

theorem gfMul_gfAdd (ha : a < 2 ^ w.n) (hb : b < 2 ^ w.n) (hc : c < 2 ^ w.n) :
    gfMul w a (gfAdd b c) = gfAdd (gfMul w a b) (gfMul w a c) :=
  residue_injective w (gfMul_lt w ha (gfAdd_lt hb hc)) (gfAdd_lt (gfMul_lt w ha hb) (gfMul_lt w ha hc))
    (by simp [mul_add])

theorem gfMul_one (ha : a < 2 ^ w.n) : gfMul w a 1 = a :=
  residue_injective w (gfMul_lt w ha (Width.one_lt_pow w)) ha (by simp)

theorem gfMul_zero (ha : a < 2 ^ w.n) : gfMul w a 0 = 0 :=
  residue_injective w (gfMul_lt w ha (Nat.two_pow_pos _)) (Nat.two_pow_pos _) (by simp)

/-- There are no zero divisors, because the residues are a field. -/
theorem eq_zero_or_eq_zero_of_gfMul_eq_zero (ha : a < 2 ^ w.n) (hb : b < 2 ^ w.n) (h : gfMul w a b = 0) :
    a = 0 ∨ b = 0 := by
  have : Fact (Irreducible (bitPoly w.poly)) := ⟨irreducible_poly w⟩
  have hprod : residue w a * residue w b = 0 := by rw [← residue_gfMul, h, residue_zero]
  exact (mul_eq_zero.1 hprod).imp (residue_eq_zero_iff w ha).1 (residue_eq_zero_iff w hb).1

/-- The power 2^n − 2 of a non-zero element is its inverse, because the power 2^n of an element is the element (R78). -/
theorem gfMul_gfInv (ha : a < 2 ^ w.n) (hne : a ≠ 0) : gfMul w a (gfInv w a) = 1 := by
  have : Fact (Irreducible (bitPoly w.poly)) := ⟨irreducible_poly w⟩
  have hres : residue w a ≠ 0 := (residue_eq_zero_iff w ha).not.2 hne
  have hexp : 2 ^ w.n = 2 ^ w.n - 2 + 1 + 1 := by have := Width.one_lt_pow w; omega
  have hpow : residue w a * (residue w a * residue w a ^ (2 ^ w.n - 2)) = residue w a := by
    rw [← pow_succ', ← pow_succ', ← hexp, ← natDegree_poly, pow_two_pow_natDegree]
  refine residue_injective w (gfMul_lt w ha (gfInv_lt w ha)) (Width.one_lt_pow w) ?_
  rw [residue_gfMul, gfInv, residue_gfPow, residue_one]
  exact (mul_eq_left₀ hres).1 hpow

end

/-- Settles O46: sums are XOR, and the laws of the product are those of the field of residues. -/
theorem fieldLaws : Obligations.FieldLaws := by
  intro w a b c ha hb hc
  exact ⟨Nat.xor_comm a b, Nat.xor_assoc a b c, Nat.xor_self a, Nat.xor_zero a, gfMul_gfAdd w ha hb hc,
    gfMul_comm w ha hb, gfMul_assoc w ha hb hc, gfMul_one w ha, gfMul_zero w ha,
    eq_zero_or_eq_zero_of_gfMul_eq_zero w ha hb, gfMul_gfInv w ha⟩

end Sys2Proof.Machine

/-! The commands of family 0x1_ on registers (spec/41_element.md): what each does in a unit that is ready, one equation per
outcome, and the obligations read off these equations. -/

namespace Sys2Proof.Machine

/-! ## The commands in a unit that is ready (R52) -/

section

variable {s : State} {w : Width} {i : Instr} {d a b : EReg} {v : Nat}

theorem exec_eget_of_ready (h : s.Ready w) (d : EReg) : exec (.eget d) s = .next (s.okData (s.elem d)) :=
  congrArg _ (whenConfigured_of_ready h.left h.right _ _)

theorem exec_emov_of_ready (h : s.Ready w) (d a : EReg) : exec (.emov d a) s = .next (s.setElem d (s.elem a)).ok :=
  congrArg _ (whenConfigured_of_ready h.left h.right _ _)

theorem exec_eadd_of_ready (h : s.Ready w) (d a b : EReg) :
    exec (.eadd d a b) s = .next (s.setElem d (gfAdd (s.elem a) (s.elem b))).ok :=
  congrArg _ (whenConfigured_of_ready h.left h.right _ _)

theorem exec_emul_of_ready (h : s.Ready w) (d a b : EReg) :
    exec (.emul d a b) s = .next (s.setElem d (gfMul w (s.elem a) (s.elem b))).ok :=
  congrArg _ (whenConfigured_of_ready h.left h.right _ _)

theorem exec_einv_of_ne_zero (h : s.Ready w) (d : EReg) (ha : s.elem a ≠ 0) :
    exec (.einv d a) s = .next (s.setElem d (gfInv w (s.elem a))).ok := by
  rw [exec, execEinv, whenConfigured_of_ready h.left h.right, if_neg ha]

theorem exec_einv_of_zero (h : s.Ready w) (d : EReg) (ha : s.elem a = 0) :
    exec (.einv d a) s = .next (s.raiseBy (.einv d a) .singular) := by
  rw [exec, execEinv, whenConfigured_of_ready h.left h.right, if_pos ha]

/-- A command that ends by writing one register leaves the number there, if the register can hold it (R17). -/
theorem writes_of_exec (h : exec i s = .next (s.setElem d v).ok) (hv : v < 2 ^ 48) :
    ∃ t, exec i s = .next t ∧ t.response = some ⟨0, 0⟩ ∧ t.elem d = v ∧ OnlyElem d s t :=
  ⟨_, h, rfl, s.elem_setElem_same (w := .w48) d hv, s.onlyElem_setElem d v⟩

end

/-! ## The remainder (R99) -/

/-- Long division subtracts multiples of `P_n`. -/
theorem exists_clmul_poly_of_reduceFrom (w : Width) (j r : Nat) : ∃ t, r ^^^ reduceFrom w j r = clmul t w.poly := by
  induction j generalizing r with
  | zero => exact ⟨0, bitPoly_injective (by simp [reduceFrom])⟩
  | succ j ih =>
    rw [reduceFrom, strict_eq]
    split_ifs
    · obtain ⟨t, ht⟩ := ih (r ^^^ w.poly <<< j)
      have hround : r ^^^ reduceFrom w j (r ^^^ w.poly <<< j) = clmul t w.poly ^^^ w.poly <<< j := by
        rw [← ht, Nat.xor_right_comm, Nat.xor_xor_cancel_right]
      rw [hround]
      exact ⟨t ^^^ 1 <<< j, bitPoly_injective (by simp [add_mul, mul_comm])⟩
    · exact ih r

/-- `reduce_n` of a number below 2^(2n) is its remainder modulo `P_n`. -/
theorem isRemainder_reduce (w : Width) {r : Nat} (h : r < 2 ^ (2 * w.n)) : IsRemainder w r (reduce w r) := by
  refine ⟨reduce_lt w h, ?_⟩
  rw [reduce, strict_eq]
  exact exists_clmul_poly_of_reduceFrom w w.n r

/-! ## An item stored and loaded (R91) -/

/-- Answering leaves memory as it is. -/
theorem State.memRead_ok (s : State) (addr k : Nat) : s.ok.memRead addr k = s.memRead addr k :=
  State.memRead_congr fun _ _ _ => rfl

/-- The address of an item depends on descriptors and parameters, which a store of bytes keeps. -/
theorem itemAddress_of_onlyBytes {s t : State} {addr k : Nat} (h : OnlyBytes addr k s t) (w : Width) (a : DReg)
    (idx : Nat) : t.itemAddress w a idx = s.itemAddress w a idx := by
  obtain ⟨⟨-, -, -, hconfig, -, -⟩, -, -, -, hdesc, -⟩ := h
  obtain ⟨hbase, hlen⟩ := hdesc a
  rw [State.itemAddress, State.itemAddress, hbase, hlen, hconfig]

theorem ready_of_onlyBytes {s t : State} {w : Width} {addr k : Nat} (h : OnlyBytes addr k s t) (hs : s.Ready w) :
    t.Ready w := by
  obtain ⟨⟨hlambda, herr, -⟩, -⟩ := h
  exact ⟨herr.trans hs.left, hlambda.trans hs.right⟩

/-! ## The obligations -/

/-- Settles O33: the product of two elements is in the range of reduction. -/
theorem emulLeavesTheProductModuloTheModulus : Obligations.EmulLeavesTheProductModuloTheModulus := by
  intro d a b w s h ha hb
  have hprod : clmul (s.elem a) (s.elem b) < 2 ^ (2 * w.n) :=
    Nat.lt_of_lt_of_le (clmul_lt_acc ha hb) (Nat.pow_le_pow_right (by decide) (Nat.sub_le _ _))
  obtain ⟨t, hexec, hresp, helem, hframe⟩ :=
    writes_of_exec (exec_emul_of_ready h d a b) (Nat.lt_of_lt_of_le (gfMul_lt w ha hb) (Width.pow_n_le w))
  exact ⟨t, hexec, hresp, helem ▸ isRemainder_reduce w hprod, hframe⟩

/-- Settles O34: a non-zero element has the inverse that the field gives it, and zero has none. -/
theorem einvLeavesTheTrueInverse : Obligations.EinvLeavesTheTrueInverse := by
  intro d a w s h ha
  refine ⟨fun hne => ?_, exec_einv_of_zero h d⟩
  have hlt := gfInv_lt w ha
  obtain ⟨t, hexec, hresp, helem, hframe⟩ :=
    writes_of_exec (exec_einv_of_ne_zero h d hne) (Nat.lt_of_lt_of_le hlt (Width.pow_n_le w))
  exact ⟨t, hexec, hresp, helem ▸ hlt, helem ▸ gfMul_gfInv w ha hne, hframe⟩

/-- Settles O38: the item's address is the same after the store, and what is read there is what was stored. -/
theorem storeThenLoadGivesTheElementBack : Obligations.StoreThenLoadGivesTheElementBack := by
  intro x y a idx w s h hx hidx hend
  have haddr : s.itemAddress w a idx.toNat = some (s.base a + idx.toNat * w.bs) :=
    State.itemAddress_eq_some.2 ⟨hidx, hend, rfl⟩
  generalize s.base a + idx.toNat * w.bs = addr at haddr ⊢
  have hframe := s.onlyBytes_memWrite addr w.bs (s.elem x)
  have hlt : s.elem x < 256 ^ w.bs := by rwa [Width.pow_bs]
  refine ⟨_, _, exec_est_of_item h x haddr,
    exec_eld_of_item (ready_of_onlyBytes hframe h) y ((itemAddress_of_onlyBytes hframe w a _).trans haddr), ?_, hframe⟩
  rw [State.memRead_ok, s.memRead_memWrite hlt]
  exact State.elem_setElem_same _ y hx

/-- Settles O29: the immediate fits under the register shifted left, and the mask keeps the low n bits. -/
theorem eliAndElisBuildAnElement : Obligations.EliAndElisBuildAnElement := by
  intro d v w s h
  have hshift : ((s.elem d <<< 16) ||| v.toNat) &&& w.mask = (s.elem d * 2 ^ 16 + v.toNat) % 2 ^ w.n := by
    rw [← Nat.shiftLeft_add_eq_or_of_lt v.isLt, Nat.shiftLeft_eq, Width.mask, Nat.and_two_pow_sub_one_eq_mod]
  have hlt : (s.elem d * 2 ^ 16 + v.toNat) % 2 ^ w.n < 2 ^ 48 :=
    Nat.lt_of_lt_of_le (Nat.mod_lt _ (Nat.two_pow_pos _)) (Width.pow_n_le w)
  exact ⟨writes_of_exec (exec_eli_of_ready h d v) (Width.half_lt .w48 v),
    writes_of_exec (hshift ▸ exec_elis_of_ready h d v) hlt⟩

/-- Settles O31: a register is narrower than the response. -/
theorem egetReturnsTheElement : Obligations.EgetReturnsTheElement := by
  intro d w s h
  have hlt := s.elem_lt d
  refine ⟨_, exec_eget_of_ready h d, ?_⟩
  rw [BitVec.toNat_ofNat]
  omega

/-- Settles O32: a copy and an XOR of registers fit a register. -/
theorem emovCopiesAndEaddXors : Obligations.EmovCopiesAndEaddXors := fun d a b _ s h =>
  ⟨writes_of_exec (exec_emov_of_ready h d a) (s.elem_lt a),
    writes_of_exec (exec_eadd_of_ready h d a b) (gfAdd_lt (s.elem_lt a) (s.elem_lt b))⟩

end Sys2Proof.Machine

/-! The carry-less multiplier, reduction and the accumulator (spec/42_clmul_reduce.md, and `VDOT` of spec/46_vector.md). The
one idea is that of the field: an identity of products is one of polynomials, and an identity of remainders is one of
residues between numbers below 2^n. -/

namespace Sys2Proof.Machine

open Polynomial

/-! ## Laws of the carry-less product (R97) -/

theorem clmul_comm (a b : Nat) : clmul a b = clmul b a := bitPoly_injective (by simp [mul_comm])

theorem clmul_zero (a : Nat) : clmul a 0 = 0 := bitPoly_injective (by simp)

theorem clmul_one (a : Nat) : clmul a 1 = a := bitPoly_injective (by simp)

theorem clmul_two_pow (a k : Nat) : clmul a (2 ^ k) = a <<< k := by
  rw [← Nat.one_shiftLeft]
  exact bitPoly_injective (by simp)

theorem xor_clmul (a b c : Nat) : clmul (a ^^^ b) c = clmul a c ^^^ clmul b c := bitPoly_injective (by simp [add_mul])

theorem clmul_xor (a b c : Nat) : clmul a (b ^^^ c) = clmul a b ^^^ clmul a c := bitPoly_injective (by simp [mul_add])

theorem testBit_eq_of_coeff_eq {a b i j : Nat} (h : (bitPoly a).coeff i = (bitPoly b).coeff j) :
    a.testBit i = b.testBit j := by
  rw [coeff_bitPoly, coeff_bitPoly] at h
  cases ha : a.testBit i <;> cases hb : b.testBit j <;> simp [ha, hb] at h ⊢

/-- Over GF(2) the square of a polynomial is the polynomial in X^2. -/
theorem bitPoly_clmul_self (a : Nat) : bitPoly (clmul a a) = expand (ZMod 2) 2 (bitPoly a) := by
  rw [ZMod.expand_card, bitPoly_clmul, sq]

theorem testBit_clmul_self_even (a k : Nat) : (clmul a a).testBit (2 * k) = a.testBit k := by
  apply testBit_eq_of_coeff_eq
  rw [bitPoly_clmul_self, coeff_expand_mul' two_pos]

theorem testBit_clmul_self_odd (a k : Nat) : (clmul a a).testBit (2 * k + 1) = false := by
  rw [← Nat.zero_testBit 0]
  apply testBit_eq_of_coeff_eq
  rw [bitPoly_clmul_self, coeff_expand two_pos, if_neg (by omega), bitPoly_zero, coeff_zero]

/-! ## Remainders (R99) -/

theorem residue_poly_multiple (w : Width) (t : Nat) : residue w (clmul t w.poly) = 0 := by
  have hpoly : residue w w.poly = 0 := residue_poly_shiftLeft w 0
  rw [residue_clmul, hpoly, mul_zero]

/-- A number and its remainder have the same residue. -/
theorem IsRemainder.residue_eq {w : Width} {R r : Nat} (h : IsRemainder w R r) : residue w r = residue w R := by
  obtain ⟨-, t, ht⟩ := h
  rw [← Nat.xor_xor_cancel_left R r, ht, residue_xor, residue_poly_multiple, add_zero]

section

variable {w : Width} {R S r : Nat}

theorem reduce_eq_of_residue (hR : R < 2 ^ (2 * w.n)) (hr : r < 2 ^ w.n) (h : residue w r = residue w R) :
    r = reduce w R :=
  residue_injective w hr (reduce_lt w hR) (h.trans (residue_reduce w R).symm)

theorem reduce_xor (hR : R < 2 ^ (2 * w.n)) (hS : S < 2 ^ (2 * w.n)) :
    reduce w (R ^^^ S) = reduce w R ^^^ reduce w S :=
  (reduce_eq_of_residue (Nat.xor_lt_two_pow hR hS) (Nat.xor_lt_two_pow (reduce_lt w hR) (reduce_lt w hS))
    (by simp)).symm

theorem reduce_of_lt (hR : R < 2 ^ w.n) : reduce w R = R :=
  (reduce_eq_of_residue (Nat.lt_of_lt_of_le hR (Nat.pow_le_pow_right two_pos (by omega))) hR rfl).symm

end

/-! ## The pipeline (R100) -/

/-- The modulus without its leading term. -/
def polyLow (w : Width) : Nat := w.poly % 2 ^ w.n

theorem poly_eq_xor (w : Width) : w.poly = 2 ^ w.n ^^^ polyLow w := by cases w <;> decide

theorem polyLow_lt (w : Width) : polyLow w < 2 ^ 8 := by cases w <;> decide

/-- The quotient of a multiple `a` of `P_n` by x^n: `a`, but for what the low terms of `P_n` carry past bit n. -/
theorem clmul_poly_shiftRight (w : Width) (a : Nat) :
    clmul a w.poly >>> w.n = a ^^^ clmul a (polyLow w) >>> w.n := by
  rw [poly_eq_xor, clmul_xor, clmul_two_pow, Nat.shiftRight_xor_distrib, Nat.shiftLeft_shiftRight]

/-- What the low terms carry is at most 7 bits, and those, times the low terms again, stay below bit n. -/
theorem carry_of_carry_eq_zero (w : Width) {a : Nat} (ha : a < 2 ^ w.n) :
    clmul (clmul a (polyLow w) >>> w.n) (polyLow w) >>> w.n = 0 := by
  have hcarry : clmul a (polyLow w) >>> w.n < 2 ^ 7 := by
    rw [Nat.shiftRight_eq_div_pow]
    exact Nat.div_lt_of_lt_mul (by rw [← Nat.pow_add]; exact clmul_lt ha (polyLow_lt w))
  refine Nat.shiftRight_eq_zero _ _ (Nat.lt_of_lt_of_le (clmul_lt hcarry (polyLow_lt w)) ?_)
  exact Nat.pow_le_pow_right two_pos (by have := Width.n_cases w; omega)

/-- The multiple of `P_n` that the pipeline subtracts agrees with `R` from bit n on (R100, stages S2 and S3). -/
theorem pipeline_clears_high (w : Width) {R : Nat} (hR : R < 2 ^ (2 * w.n)) :
    R ^^^ clmul (clmul (R >>> w.n) w.poly >>> w.n) w.poly < 2 ^ w.n := by
  have hhigh : R >>> w.n < 2 ^ w.n := by
    rw [Nat.shiftRight_eq_div_pow]
    exact Nat.div_lt_of_lt_mul (by rwa [← Nat.pow_add, ← Nat.two_mul])
  have hzero : (R ^^^ clmul (clmul (R >>> w.n) w.poly >>> w.n) w.poly) >>> w.n = 0 := by
    rw [Nat.shiftRight_xor_distrib, clmul_poly_shiftRight, clmul_poly_shiftRight, xor_clmul, Nat.shiftRight_xor_distrib,
      carry_of_carry_eq_zero w hhigh, Nat.xor_zero, Nat.xor_xor_cancel_right, Nat.xor_self]
  rw [Nat.shiftRight_eq_div_pow] at hzero
  exact (Nat.div_eq_zero_iff_lt (Nat.two_pow_pos _)).1 hzero

theorem reducePipeline_eq_reduce (w : Width) {R : Nat} (hR : R < 2 ^ (2 * w.n)) : reducePipeline w R = reduce w R := by
  have hlt := pipeline_clears_high w hR
  have hpipe : reducePipeline w R = R ^^^ clmul (clmul (R >>> w.n) w.poly >>> w.n) w.poly := by
    rw [reducePipeline, Width.mu, Width.mask, Nat.and_two_pow_sub_one_eq_mod, Nat.mod_eq_of_lt hlt]
  rw [hpipe]
  exact reduce_eq_of_residue hR hlt (by rw [residue_xor, residue_poly_multiple, add_zero])

/-! ## Reducing a sum of products once (R107) -/

theorem residue_gfSum (w : Width) (l : List Nat) : residue w (gfSum l) = (l.map (residue w)).sum := by
  induction l with
  | nil => exact residue_zero w
  | cons v l ih => rw [List.map_cons, List.sum_cons, ← ih, ← residue_gfAdd]; rfl

theorem gfSum_gfMul_lt {w : Width} {x y : List Nat} (hx : ∀ v ∈ x, v < 2 ^ w.n) (hy : ∀ v ∈ y, v < 2 ^ w.n) :
    gfSum (List.zipWith (gfMul w) x y) < 2 ^ w.n := by
  refine gfSum_lt fun v hv => ?_
  obtain ⟨j, hj, rfl⟩ := List.mem_iff_getElem.1 hv
  rw [List.getElem_zipWith]
  exact gfMul_lt w (hx _ (List.getElem_mem _)) (hy _ (List.getElem_mem _))

theorem reduce_lazyDot {w : Width} {x y : List Nat} (hx : ∀ v ∈ x, v < 2 ^ w.n) (hy : ∀ v ∈ y, v < 2 ^ w.n) :
    reduce w (lazyDot x y) = gfSum (List.zipWith (gfMul w) x y) := by
  have hproducts : (List.zipWith clmul x y).map (residue w) = (List.zipWith (gfMul w) x y).map (residue w) := by
    simp [List.map_zipWith]
  refine residue_injective w (reduce_lt_of_acc w (lazyDot_lt hx hy)) (gfSum_gfMul_lt hx hy) ?_
  rw [residue_reduce, lazyDot, residue_gfSum, residue_gfSum, hproducts]

/-- Lists of one length are combined item by item. -/
theorem zipWith_eq_map_range (f : Nat → Nat → Nat) {x y : List Nat} (h : x.length = y.length) :
    List.zipWith f x y = (List.range x.length).map fun j => f (x.getD j 0) (y.getD j 0) := by
  refine List.ext_getElem (by simp [h]) fun j hj _ => ?_
  rw [List.length_zipWith, ← h, Nat.min_self] at hj
  simp [hj, h ▸ hj]

/-! ## The commands in a unit that is ready (R52) -/

section

variable {s : State} {w : Width} {i : Instr} {a b : DReg} {v : Nat}

theorem exec_aclr_of_ready (h : s.Ready w) : exec .aclr s = .next (s.setAcc 0).ok :=
  congrArg _ (whenConfigured_of_ready h.left h.right _ _)

theorem exec_clmul_of_ready (h : s.Ready w) (a b : EReg) :
    exec (.clmul a b) s = .next (s.setAcc (clmul (s.elem a) (s.elem b))).ok :=
  congrArg _ (whenConfigured_of_ready h.left h.right _ _)

theorem exec_clmac_of_ready (h : s.Ready w) (a b : EReg) :
    exec (.clmac a b) s = .next (s.setAcc (s.acc.toNat ^^^ clmul (s.elem a) (s.elem b))).ok :=
  congrArg _ (whenConfigured_of_ready h.left h.right _ _)

theorem exec_ared_of_ready (h : s.Ready w) (d : EReg) :
    exec (.ared d) s = .next (s.setElem d (reduce w s.acc.toNat)).ok :=
  congrArg _ (whenConfigured_of_ready h.left h.right _ _)

theorem exec_agetl_of_ready (h : s.Ready w) : exec .agetl s = .next (s.respond 0 (s.acc.extractLsb' 0 64)) :=
  congrArg _ (whenConfigured_of_ready h.left h.right _ _)

theorem exec_ageth_of_ready (h : s.Ready w) :
    exec .ageth s = .next (s.respond 0 ((s.acc.extractLsb' 64 32).setWidth 64)) :=
  congrArg _ (whenConfigured_of_ready h.left h.right _ _)

theorem exec_vdot_of_inRange (h : s.Ready w) (d : EReg) (hlen : s.len a = s.len b) (ha : s.VecInRange w a)
    (hb : s.VecInRange w b) :
    exec (.vdot d a b) s = .next ((s.setAcc (lazyDot (s.readVec w a) (s.readVec w b))).setElem d
      (reduce w (lazyDot (s.readVec w a) (s.readVec w b)))).ok := by
  rw [exec, execVdot, whenConfigured_of_ready h.left h.right, if_neg (not_not.2 hlen), if_neg (not_not.2 ha),
    if_neg (not_not.2 hb)]

theorem State.onlyAcc_setAcc (s : State) (v : Nat) : OnlyAcc s (s.setAcc v).ok :=
  ⟨⟨rfl, rfl, rfl, rfl, rfl, rfl⟩, rfl, fun _ => rfl, fun _ => ⟨rfl, rfl⟩, fun _ => rfl⟩

/-- The accumulator holds every number of 96 bits as it is (R21). -/
theorem State.acc_setAcc_toNat (s : State) (hv : v < 2 ^ 96) : (s.setAcc v).acc.toNat = v := Nat.mod_eq_of_lt hv

/-- A command that ends by writing `ACC` leaves the number there, if `ACC` can hold it (R21). -/
theorem accumulates_of_exec (h : exec i s = .next (s.setAcc v).ok) (hv : v < 2 ^ 96) :
    ∃ t, exec i s = .next t ∧ t.response = some ⟨0, 0⟩ ∧ t.acc.toNat = v ∧ OnlyAcc s t :=
  ⟨_, h, rfl, s.acc_setAcc_toNat hv, s.onlyAcc_setAcc v⟩

/-- The product of two registers fits `ACC`, whatever the width (R21). -/
theorem State.clmul_elem_lt (s : State) (a b : EReg) : clmul (s.elem a) (s.elem b) < 2 ^ 96 :=
  Nat.lt_of_lt_of_le (clmul_lt (s.elem_lt a) (s.elem_lt b)) (Nat.pow_le_pow_right two_pos (by omega))

/-- The accumulator's range under a configuration lies in `ACC` (R21). -/
theorem Width.acc_range_le (w : Width) : 2 ^ (2 * w.n - 1) ≤ 2 ^ 96 :=
  Nat.pow_le_pow_right two_pos (by have := Width.n_le w; omega)

end

/-! ## The obligations -/

/-- Settles O39: products of registers, and their sums with `ACC`, fit `ACC`. -/
theorem accumulatorCommandsWriteOnlyAcc : Obligations.AccumulatorCommandsWriteOnlyAcc := by
  intro a b w s h
  have hprod := s.clmul_elem_lt a b
  exact ⟨⟨_, exec_aclr_of_ready h, rfl, rfl, s.onlyAcc_setAcc 0⟩,
    accumulates_of_exec (exec_clmul_of_ready h a b) hprod,
    accumulates_of_exec (exec_clmac_of_ready h a b) (Nat.xor_lt_two_pow s.acc.isLt hprod)⟩

/-- Settles O40: `ARED` writes `reduce_n(ACC)`, which is the remainder. -/
theorem aredReducesTheAccumulator : Obligations.AredReducesTheAccumulator := by
  intro d w s h hacc
  obtain ⟨t, hexec, hresp, helem, hframe⟩ :=
    writes_of_exec (exec_ared_of_ready h d) (Nat.lt_of_lt_of_le (reduce_lt w hacc) (Width.pow_n_le w))
  exact ⟨t, hexec, hresp, helem ▸ isRemainder_reduce w hacc, hframe⟩

/-- Settles O41: the two parts are the remainder and the quotient of `ACC` by 2^64. -/
theorem agetlAndAgethReturnTheAccumulator : Obligations.AgetlAndAgethReturnTheAccumulator := by
  intro w s h
  have hacc := s.acc.isLt
  have hlo : (s.acc.extractLsb' 0 64).toNat = s.acc.toNat % 2 ^ 64 := by simp
  have hhi : ((s.acc.extractLsb' 64 32).setWidth 64).toNat = s.acc.toNat / 2 ^ 64 := by
    simp only [BitVec.toNat_setWidth, BitVec.extractLsb'_toNat, Nat.shiftRight_eq_div_pow]
    omega
  refine ⟨_, _, exec_agetl_of_ready h, exec_ageth_of_ready h, ?_, ?_⟩
  · rw [hhi]
    omega
  · rw [hhi, hlo]
    omega

/-- Settles O42: the laws are those of the product of polynomials. -/
theorem carrylessProductLaws : Obligations.CarrylessProductLaws := by
  intro a b c k
  exact ⟨clmul_comm a b, clmul_zero a, clmul_one a, clmul_two_pow a k, xor_clmul a c b, testBit_clmul_self_even a k,
    testBit_clmul_self_odd a k, by decide⟩

/-- Settles O43: a remainder is determined by its residue. -/
theorem reduceIsTheUniqueRemainder : Obligations.ReduceIsTheUniqueRemainder := by
  intro w R S hR hS
  exact ⟨isRemainder_reduce w hR, fun r hr => reduce_eq_of_residue hR hr.1 hr.residue_eq, reduce_xor hR hS, reduce_of_lt⟩

/-- Settles O44: the pipeline subtracts a multiple of `P_n` that clears the bits from n on. -/
theorem pipelineEqualsLongDivision : Obligations.PipelineEqualsLongDivision :=
  ⟨fun w _ hR => reducePipeline_eq_reduce w hR, by decide, by decide, by decide, by decide, by decide, by decide⟩

/-- Settles O45: both sides have the sum of the products' residues. -/
theorem lazyReductionEqualsReducedSum : Obligations.LazyReductionEqualsReducedSum :=
  fun _ _ _ hx hy => reduce_lazyDot hx hy

/-- Settles O59: the sum of products of two vectors fits `ACC`, and its remainder is the sum of the reduced products. -/
theorem vdotLeavesSumAndDotProduct : Obligations.VdotLeavesSumAndDotProduct := by
  intro d a b w s h hlen ha hb
  have hxlt : ∀ v ∈ s.readVec w a, v < 2 ^ w.n := fun _ => State.readVec_lt
  have hylt : ∀ v ∈ s.readVec w b, v < 2 ^ w.n := fun _ => State.readVec_lt
  have hitems (f : Nat → Nat → Nat) : List.zipWith f (s.readVec w a) (s.readVec w b) =
      (List.range (s.len a)).map fun j => f ((s.readVec w a).getD j 0) ((s.readVec w b).getD j 0) := by
    rw [zipWith_eq_map_range f (by simp [hlen]), s.readVec_length]
  have hsum := lazyDot_lt hxlt hylt
  have hexec := exec_vdot_of_inRange h d hlen ha hb
  have hdot := reduce_lazyDot hxlt hylt
  generalize hacc : lazyDot (s.readVec w a) (s.readVec w b) = sum at hsum hexec hdot
  obtain ⟨hcontrol, heq, -, helem, hdesc, hbyte⟩ := (s.setAcc sum).onlyElem_setElem d (reduce w sum)
  refine ⟨_, hexec, rfl, ?_, ?_, hcontrol, heq, helem, hdesc, hbyte⟩
  · rw [← hitems, ← lazyDot, hacc]
    exact s.acc_setAcc_toNat (Nat.lt_of_lt_of_le hsum (Width.acc_range_le w))
  · rw [← hitems, ← hdot]
    exact State.elem_setElem_same _ d (reduce_lt_of_acc w hsum)

end Sys2Proof.Machine

/-! Lifting of bytes (spec/43_lifting.md). The one idea: the image of a byte is the value of its polynomial at the generator,
so the lifting is evaluation at the generator, cut down to bytes. That a non-zero byte has a non-zero image is Rabin's test
again, run this time on the byte field. -/

namespace Sys2Proof.Machine

open Polynomial

/-! ## `LIFTI` (R119) -/

theorem exec_lifti_of_ready {s : State} {w : Width} (h : s.Ready w) (d : EReg) (imm : Byte) :
    exec (.lifti d imm) s = .next (s.setElem d (lift s.config w imm.toNat)).ok :=
  congrArg _ (whenConfigured_of_ready h.left h.right _ _)

/-- Settles O47: the entry of the table fits a register, and it is the closed form of the byte. -/
theorem liftiLeavesTheImageOfTheByte : Obligations.LiftiLeavesTheImageOfTheByte := by
  intro d b w s h
  rw [← lift_eq_liftClosed s.config w b.isLt]
  exact writes_of_exec (exec_lifti_of_ready h d b) (Nat.lt_of_lt_of_le (lift_lt s.config w _) (Width.pow_n_le w))

/-! ## Evaluation at an element -/

/-- The value at `γ` of the polynomial that a number stands for (R4). -/
noncomputable def valueAt {w : Width} (γ : Residues w) (x : Nat) : Residues w := aeval γ (bitPoly x)

section

variable {w : Width} (γ : Residues w)

@[simp] theorem valueAt_zero : valueAt γ 0 = 0 := by simp [valueAt]

@[simp] theorem valueAt_one : valueAt γ 1 = 1 := by simp [valueAt]

@[simp] theorem valueAt_xor (x y : Nat) : valueAt γ (x ^^^ y) = valueAt γ x + valueAt γ y := by simp [valueAt]

@[simp] theorem valueAt_shiftLeft (x k : Nat) : valueAt γ (x <<< k) = valueAt γ x * γ ^ k := by simp [valueAt]

@[simp] theorem valueAt_clmul (x y : Nat) : valueAt γ (clmul x y) = valueAt γ x * valueAt γ y := by simp [valueAt]

@[simp] theorem valueAt_two : valueAt γ 2 = γ := by
  rw [show 2 = 1 <<< 1 from rfl, valueAt_shiftLeft, valueAt_one, one_mul, pow_one]

end

/-- A number of `k` bits is its low `k` bits. -/
theorem lowBitPoly_of_lt {b k : Nat} (h : b < 2 ^ k) : lowBitPoly b k = bitPoly b := by
  ext i
  have hbit (hi : b.testBit i = true) : i < k :=
    (Nat.pow_lt_pow_iff_right one_lt_two).1 (Nat.lt_of_le_of_lt (Nat.ge_two_pow_of_testBit hi) h)
  rw [coeff_lowBitPoly, coeff_bitPoly]
  exact if_congr (and_iff_right_of_imp hbit) rfl rfl

theorem residue_liftLow (w : Width) (g m b : Nat) :
    residue w (liftLow w g m b) = aeval (residue w g) (lowBitPoly b m) := by
  induction m with
  | zero => simp [liftLow, gfSum, lowBitPoly]
  | succ m ih =>
    rw [liftLow_succ, lowBitPoly_succ, residue_gfAdd, ih, map_add]
    split_ifs <;> simp

/-- The image of a byte is the value of its polynomial at the generator (R116). -/
theorem residue_lift (c : Config) (w : Width) {b : Nat} (hb : b < 256) :
    residue w (lift c w b) = valueAt (residue w (liftGen c w)) b := by
  rw [lift_eq_liftClosed c w hb, ← liftLow_eight, residue_liftLow, lowBitPoly_of_lt (k := 8) hb, valueAt]

/-! ## Multiplication in the byte field (R118) -/

/-- Round `j` of the reduction modulo `AES_POLY`. -/
def byteRound (r j : Nat) : Nat := if r.testBit (14 - j) then r ^^^ (0x11B <<< (6 - j)) else r

theorem byteMul_eq_foldl (x y : Nat) : byteMul x y = (List.range 7).foldl byteRound (clmul x y) := rfl

/-- A number of m + 1 bits whose top bit is clear has m bits. -/
theorem lt_two_pow_of_testBit_eq_false {r m : Nat} (h : r < 2 ^ (m + 1)) (hm : r.testBit m = false) : r < 2 ^ m := by
  refine Nat.lt_pow_two_of_testBit _ fun i hi => ?_
  rcases Nat.lt_or_eq_of_le hi with hlt | rfl
  · exact Nat.testBit_lt_two_pow (Nat.lt_of_lt_of_le h (Nat.pow_le_pow_right two_pos hlt))
  · exact hm

/-- Round `j` clears bit 14 − j. -/
theorem byteRound_lt {r j : Nat} (hj : j < 7) (h : r < 2 ^ (14 - j + 1)) : byteRound r j < 2 ^ (14 - j) := by
  have hpoly : ∀ j < 7, 0x11B <<< (6 - j) < 2 ^ (14 - j + 1) ∧ (0x11B <<< (6 - j)).testBit (14 - j) = true := by decide
  obtain ⟨hlt, htop⟩ := hpoly j hj
  rw [byteRound]
  split_ifs with hr
  · exact lt_two_pow_of_testBit_eq_false (Nat.xor_lt_two_pow h hlt) (by rw [Nat.testBit_xor, hr, htop, Bool.xor_self])
  · exact lt_two_pow_of_testBit_eq_false h (Bool.eq_false_of_not_eq_true hr)

theorem byteMul_lt {x y : Nat} (hx : x < 256) (hy : y < 256) : byteMul x y < 256 := by
  have hrounds : ∀ m ≤ 7, (List.range m).foldl byteRound (clmul x y) < 2 ^ (15 - m) := by
    intro m hm
    induction m with
    | zero => exact clmul_lt (n := 8) (m := 8) hx hy
    | succ m ih =>
      have hbits : 15 - m = 14 - m + 1 := by omega
      rw [List.range_succ, List.foldl_concat, show 15 - (m + 1) = 14 - m by omega]
      exact byteRound_lt hm (hbits ▸ ih (by omega))
  exact hrounds 7 le_rfl

/-! ## Rabin's test, run on the byte field -/

/-- Squaring in the byte field. -/
def byteSquare (x : Nat) : Nat := byteMul x x

/-- The orbit under squaring of x, which is the number 2. -/
theorem byteSquare_orbit : byteSquare 2 = 4 ∧ byteSquare 4 = 0x10 ∧ byteSquare 0x10 = 0x1B ∧ byteSquare 0x1B = 0x5E ∧
    byteSquare 0x5E = 0xE4 ∧ byteSquare 0xE4 = 0x4D ∧ byteSquare 0x4D = 0xFA ∧ byteSquare 0xFA = 2 := by decide

theorem byteSquare_iterate_four : byteSquare^[4] 2 = 0x5E := by simp [byteSquare_orbit]

theorem byteSquare_iterate_eight : byteSquare^[8] 2 = 2 := by simp [byteSquare_orbit]

/-- The sum of x and of what squaring it four times gives is invertible. -/
theorem byteMul_orbit_sum_inv : byteMul (0x5E ^^^ 2) 0x51 = 1 := by decide

/-- A root of an irreducible polynomial comes back after as many squarings as the degree. -/
theorem isPeriodicPt_natDegree_of_root {K : Type*} [CommRing K] [Algebra (ZMod 2) K] {f : (ZMod 2)[X]}
    (hf : Irreducible f) {γ : K} (h : aeval γ f = 0) : Function.IsPeriodicPt (· ^ 2) f.natDegree γ := by
  have : Fact (Irreducible f) := ⟨hf⟩
  let φ : AdjoinRoot f →+* K := AdjoinRoot.lift (algebraMap (ZMod 2) K) γ h
  have hroot : φ (AdjoinRoot.root f) = γ := AdjoinRoot.lift_root h
  rw [isPeriodicPt_sq_iff, ← hroot, ← map_pow, pow_two_pow_natDegree]

/-! ## Evaluation at a root of `AES_POLY` (R117) -/

theorem valueAt_aesPoly_of_isAesRoot {w : Width} {g : Nat} (h : isAesRoot w g = true) :
    valueAt (residue w g) 0x11B = 0 := by
  rw [isAesRoot, beq_iff_eq] at h
  have hsum := congrArg (residue w) h
  rw [show 0x11B = 1 <<< 8 ^^^ 1 <<< 4 ^^^ 1 <<< 3 ^^^ 2 ^^^ 1 from rfl]
  simpa only [residue_xor, residue_gfPow, residue_zero, residue_one, valueAt_xor, valueAt_shiftLeft, valueAt_one,
    valueAt_two, one_mul] using hsum

section

variable {w : Width} {γ : Residues w} (hγ : valueAt γ 0x11B = 0)
include hγ

/-- A round subtracts a multiple of `AES_POLY`. -/
theorem valueAt_byteRound (r j : Nat) : valueAt γ (byteRound r j) = valueAt γ r := by
  rw [byteRound]
  split_ifs <;> simp [hγ]

theorem valueAt_byteMul (x y : Nat) : valueAt γ (byteMul x y) = valueAt γ x * valueAt γ y := by
  rw [byteMul_eq_foldl, ← valueAt_clmul]
  generalize List.range 7 = rounds, clmul x y = r
  induction rounds generalizing r with
  | nil => rfl
  | cons j rounds ih => rw [List.foldl_cons, ih, valueAt_byteRound hγ]

/-! ### The test, carried to the root -/

theorem semiconj_valueAt_byteSquare : Function.Semiconj (valueAt γ) byteSquare (· ^ 2) := fun x =>
  (valueAt_byteMul hγ x x).trans (sq _).symm

theorem isPeriodicPt_root_eight : Function.IsPeriodicPt (· ^ 2) 8 γ := by
  have hx : Function.IsPeriodicPt byteSquare 8 2 := byteSquare_iterate_eight
  exact valueAt_two γ ▸ hx.map (semiconj_valueAt_byteSquare hγ)

theorem not_isPeriodicPt_root_four [Nontrivial (Residues w)] : ¬ Function.IsPeriodicPt (· ^ 2) 4 γ := by
  intro hfix
  have hfour : valueAt γ 0x5E = valueAt γ 2 := by
    rw [← byteSquare_iterate_four, (semiconj_valueAt_byteSquare hγ).iterate_right 4, valueAt_two]
    exact hfix
  have hsum : valueAt γ (0x5E ^^^ 2) = 0 := by
    rw [valueAt_xor, hfour, ← valueAt_xor, Nat.xor_self, valueAt_zero]
  have hone := congrArg (valueAt γ) byteMul_orbit_sum_inv
  rw [valueAt_byteMul hγ, hsum, zero_mul, valueAt_one] at hone
  exact zero_ne_one hone

/-- A non-zero byte does not vanish at a root of `AES_POLY`. Else the root's minimal polynomial has a degree below 8, and
squaring gives the root back after as many steps as that degree and after 8, so after 4, which the test rules out. -/
theorem eq_zero_of_valueAt_eq_zero {z : Nat} (hz : z < 256) (h : valueAt γ z = 0) : z = 0 := by
  have : Fact (Irreducible (bitPoly w.poly)) := ⟨irreducible_poly w⟩
  by_contra hne
  have hpoly : bitPoly z ≠ 0 := fun hzero => hne (bitPoly_injective (hzero.trans bitPoly_zero.symm))
  have hint : IsIntegral (ZMod 2) γ := IsAlgebraic.isIntegral ⟨bitPoly z, hpoly, h⟩
  have hlt : (minpoly (ZMod 2) γ).natDegree < 8 :=
    (natDegree_le_natDegree (minpoly.degree_le_of_ne_zero _ γ hpoly h)).trans_lt
      ((natDegree_lt_iff_degree_lt hpoly).2 (degree_bitPoly_lt hz))
  have hdeg := isPeriodicPt_natDegree_of_root (minpoly.irreducible hint) (minpoly.aeval (ZMod 2) γ)
  have hgcd : ∀ d < 8, 0 < d → d.gcd 8 ∣ 4 := by decide
  exact not_isPeriodicPt_root_four hγ
    ((hdeg.gcd (isPeriodicPt_root_eight hγ)).trans_dvd (hgcd _ hlt (minpoly.natDegree_pos hint)))

end

/-! ## The ring embedding (R118) -/

theorem lift_zero (c : Config) (w : Width) : lift c w 0 = 0 :=
  residue_injective w (lift_lt c w 0) (Nat.two_pow_pos _) (by simp [residue_lift])

theorem lift_one (c : Config) (w : Width) : lift c w 1 = 1 :=
  residue_injective w (lift_lt c w 1) (Width.one_lt_pow w) (by simp [residue_lift])

theorem lift_xor (c : Config) (w : Width) {x y : Nat} (hx : x < 256) (hy : y < 256) :
    lift c w (x ^^^ y) = gfAdd (lift c w x) (lift c w y) := by
  have hxy : x ^^^ y < 256 := Nat.xor_lt_two_pow (n := 8) hx hy
  refine residue_injective w (lift_lt c w _) (gfAdd_lt (lift_lt c w x) (lift_lt c w y)) ?_
  rw [residue_gfAdd, residue_lift c w hx, residue_lift c w hy, residue_lift c w hxy, valueAt_xor]

theorem lift_byteMul {c : Config} {w : Width} (hroot : isAesRoot w (liftGen c w) = true) {x y : Nat} (hx : x < 256)
    (hy : y < 256) : lift c w (byteMul x y) = gfMul w (lift c w x) (lift c w y) := by
  refine residue_injective w (lift_lt c w _) (gfMul_lt w (lift_lt c w x) (lift_lt c w y)) ?_
  rw [residue_gfMul, residue_lift c w hx, residue_lift c w hy, residue_lift c w (byteMul_lt hx hy),
    valueAt_byteMul (valueAt_aesPoly_of_isAesRoot hroot)]

theorem lift_injective {c : Config} {w : Width} (hroot : isAesRoot w (liftGen c w) = true) {x y : Nat} (hx : x < 256)
    (hy : y < 256) (h : lift c w x = lift c w y) : x = y := by
  have hxy : x ^^^ y < 256 := Nat.xor_lt_two_pow (n := 8) hx hy
  have hvalue : valueAt (residue w (liftGen c w)) (x ^^^ y) = 0 := by
    rw [← residue_lift c w hxy, lift_xor c w hx hy, h, gfAdd, Nat.xor_self, residue_zero]
  exact Nat.xor_eq_zero_iff.1 (eq_zero_of_valueAt_eq_zero (valueAt_aesPoly_of_isAesRoot hroot) hxy hvalue)

/-- Settles O49: evaluation is additive, at a root of `AES_POLY` multiplicative, and there only the byte 0 vanishes. -/
theorem liftingIsARingEmbedding : Obligations.LiftingIsARingEmbedding := by
  intro c w x y hx hy
  exact ⟨lift_zero c w, lift_one c w, lift_xor c w hx hy,
    fun hroot => ⟨lift_byteMul hroot hx hy, lift_injective hroot hx hy⟩⟩

end Sys2Proof.Machine

/-! Polynomials and family 0x4_ (spec/44_polynomial.md). The one idea: the residue of `horner` is evaluation in the ring of
residues, so it is linear in the coefficients, and a round of `poly_from_roots` multiplies it by x + r. -/

namespace Sys2Proof.Machine

/-! ## Evaluation, as residues (R127) -/

section

variable (w : Width) (x : Nat)

@[simp] theorem residue_horner_nil : residue w (horner w [] x) = 0 := residue_zero w

@[simp] theorem residue_horner_cons (v : Nat) (c : List Nat) :
    residue w (horner w (v :: c) x) = residue w (horner w c x) * residue w x + residue w v := by
  rw [← residue_gfMul, ← residue_gfAdd]
  rfl

/-- Evaluation is additive: polynomials of one length are added coefficient by coefficient. -/
theorem residue_horner_zipWith_gfAdd {c c' : List Nat} (h : c.length = c'.length) :
    residue w (horner w (List.zipWith gfAdd c c') x) = residue w (horner w c x) + residue w (horner w c' x) := by
  induction c generalizing c' with
  | nil =>
    obtain rfl := List.length_eq_zero_iff.1 h.symm
    simp
  | cons v c ih =>
    cases c' with
    | nil => cases h
    | cons v' c' =>
      rw [List.zipWith_cons_cons, residue_horner_cons, ih (Nat.succ.inj h), residue_gfAdd, residue_horner_cons,
        residue_horner_cons]
      ring

/-- A factor of every coefficient is a factor of the value. -/
theorem residue_horner_map_gfMul (c : List Nat) (r : Nat) :
    residue w (horner w (c.map fun v => gfMul w v r) x) = residue w (horner w c x) * residue w r := by
  induction c with
  | nil => simp
  | cons v c ih =>
    rw [List.map_cons, residue_horner_cons, ih, residue_gfMul, residue_horner_cons]
    ring

/-- A coefficient 0 on top is no part of the value (R125). -/
theorem residue_horner_append_zero (c : List Nat) : residue w (horner w (c ++ [0]) x) = residue w (horner w c x) := by
  induction c with
  | nil => simp
  | cons v c ih => rw [List.cons_append, residue_horner_cons, ih, residue_horner_cons]

theorem residue_horner_eq_sum (c : List Nat) :
    residue w (horner w c x) = ((List.range c.length).map fun i => residue w (c.getD i 0) * residue w x ^ i).sum := by
  induction c with
  | nil => simp
  | cons v c ih =>
    rw [residue_horner_cons, ih, ← List.sum_map_mul_right, List.length_cons, List.range_succ_eq_map, List.map_cons,
      List.sum_cons, List.map_map, add_comm]
    simp [Function.comp_def, pow_succ, mul_assoc]

variable {x}

/-- Horner's scheme computes the sum of c_i · x^i. -/
theorem horner_eq_gfSum {c : List Nat} (hc : ∀ v ∈ c, v < 2 ^ w.n) (hx : x < 2 ^ w.n) :
    horner w c x = gfSum ((List.range c.length).map fun i => gfMul w (c.getD i 0) (gfPow w x i)) := by
  have hsum : gfSum ((List.range c.length).map fun i => gfMul w (c.getD i 0) (gfPow w x i)) < 2 ^ w.n :=
    gfSum_lt <| List.forall_mem_map.2 fun i hi => by
      rw [List.getD_eq_getElem c 0 (List.mem_range.1 hi)]
      exact gfMul_lt w (hc _ (List.getElem_mem _)) (gfPow_lt w hx i)
  refine residue_injective w (horner_lt w hc hx) hsum ?_
  simp [residue_horner_eq_sum, residue_gfSum, Function.comp_def]

end

/-! ## `poly_from_roots` (R126) -/

section

variable (w : Width)

theorem residue_gfProd (l : List Nat) : residue w (gfProd w l) = (l.map (residue w)).prod := by
  induction l with
  | nil => exact residue_one w
  | cons v l ih => rw [List.map_cons, List.prod_cons, ← ih, ← residue_gfMul]; rfl

/-- A round multiplies the polynomial by X + r, and so its value by x + r. -/
theorem residue_horner_mulByRoot (p : List Nat) (r x : Nat) :
    residue w (horner w (mulByRoot w p r) x) = residue w (horner w p x) * residue w (gfAdd x r) := by
  rw [mulByRoot, residue_horner_zipWith_gfAdd w x (by simp), residue_horner_map_gfMul, residue_horner_append_zero,
    residue_horner_cons, residue_zero, add_zero, residue_gfAdd, mul_add]

theorem residue_horner_polyFromRoots (roots : List Nat) (x : Nat) :
    residue w (horner w (polyFromRoots w roots) x) = residue w (gfProd w (roots.map fun r => gfAdd x r)) := by
  have hrounds (p : List Nat) : residue w (horner w (roots.foldl (mulByRoot w) p) x) =
      residue w (horner w p x) * residue w (gfProd w (roots.map fun r => gfAdd x r)) := by
    induction roots generalizing p with
    | nil => simp [residue_gfProd]
    | cons r roots ih =>
      rw [List.foldl_cons, ih, residue_horner_mulByRoot, residue_gfProd, residue_gfProd, List.map_cons, List.map_cons,
        List.prod_cons, mul_assoc]
  simpa [polyFromRoots] using hrounds [1]

/-- A round moves the top coefficient up by one degree and adds 0 · r to it. -/
theorem mulByRoot_getLast? {p : List Nat} {v r : Nat} (hr : r < 2 ^ w.n) (hp : p.getLast? = some v) :
    (mulByRoot w p r).getLast? = some v := by
  obtain ⟨low, rfl⟩ := List.getLast?_eq_some_iff.1 hp
  have hzero : gfMul w 0 r = 0 := (gfMul_comm w (Nat.two_pow_pos _) hr).trans (gfMul_zero w hr)
  have hround : mulByRoot w (low ++ [v]) r =
      List.zipWith gfAdd (0 :: low) ((low ++ [v]).map fun c => gfMul w c r) ++ [v] := by
    rw [mulByRoot, List.map_append (l₁ := low ++ [v]), ← List.cons_append, List.zipWith_append (by simp)]
    simp [hzero, gfAdd]
  rw [hround, List.getLast?_concat]

theorem polyFromRoots_getLast? {roots : List Nat} (h : ∀ r ∈ roots, r < 2 ^ w.n) :
    (polyFromRoots w roots).getLast? = some 1 := by
  have hone : [1].getLast? = some 1 := rfl
  rw [polyFromRoots]
  generalize [1] = p at hone ⊢
  induction roots generalizing p with
  | nil => exact hone
  | cons r roots ih =>
    obtain ⟨hr, hroots⟩ := List.forall_mem_cons.1 h
    exact ih hroots _ (mulByRoot_getLast? w hr hone)

end

/-- Settles O53: the top coefficient is kept by every round, and both values have one residue. -/
theorem polynomialFromRootsIsTheProductOfItsFactors : Obligations.PolynomialFromRootsIsTheProductOfItsFactors := by
  intro w roots x hroots hx
  have hvalue := horner_lt w (polyFromRoots_lt w hroots) hx
  have hprod : gfProd w (roots.map fun r => gfAdd x r) < 2 ^ w.n :=
    gfProd_lt w (List.forall_mem_map.2 fun r hr => gfAdd_lt hx (hroots r hr))
  exact ⟨polyFromRoots_length w roots, polyFromRoots_getLast? w hroots,
    residue_injective w hvalue hprod (residue_horner_polyFromRoots w roots x)⟩

/-! ## `PEVAL` (R130) -/

theorem exec_peval_of_inRange {s : State} {w : Width} {a : DReg} (h : s.Ready w) (d b : EReg) (ha : s.VecInRange w a) :
    exec (.peval d a b) s = .next (s.setElem d (horner w (s.readVec w a) (s.elem b))).ok := by
  rw [exec, execPeval, whenConfigured_of_ready h.left h.right, if_neg (not_not.2 ha)]

/-- Settles O52: the value that Horner's scheme leaves is the sum of c_i · x^i, and it fits a register. -/
theorem pevalLeavesTheValueOfThePolynomial : Obligations.PevalLeavesTheValueOfThePolynomial := by
  intro d a b w s h hb ha
  have hvec : ∀ v ∈ s.readVec w a, v < 2 ^ w.n := fun _ => State.readVec_lt
  rw [← s.readVec_length w a, ← horner_eq_gfSum w hvec hb]
  exact writes_of_exec (exec_peval_of_inRange h d b ha)
    (Nat.lt_of_lt_of_le (horner_lt w hvec hb) (Width.pow_n_le w))

/-! ## `PGEN` (R128) -/

theorem exec_pgen_of_inRange {s : State} {w : Width} {d : DReg} {cnt : Half} (h : s.Ready w)
    (hd : s.DestInRange w d cnt.toNat) :
    exec (.pgen d cnt) s = .next (s.writeVec w d (fieldPoints w cnt.toNat)).ok := by
  rw [exec, execPgen, whenConfigured_of_ready h.left h.right, if_neg (not_not.2 hd)]

theorem Width.two_lt_pow (w : Width) : 2 < 2 ^ w.n := by cases w <;> decide

theorem fieldPoints_lt (w : Width) (cnt : Nat) : ∀ v ∈ fieldPoints w cnt, v < 2 ^ w.n :=
  List.forall_mem_map.2 fun i _ => gfPow_lt w (Width.two_lt_pow w) (i + 1)

theorem fieldPoints_getD (w : Width) {cnt j : Nat} (hj : j < cnt) : (fieldPoints w cnt).getD j 0 = gfPow w 2 (j + 1) := by
  simp [fieldPoints, hj]

/-- Settles O50: item j is the power j + 1 of 2, one multiplication by 2 after its predecessor. -/
theorem pgenWritesSuccessivePowersOfTwo : Obligations.PgenWritesSuccessivePowersOfTwo := by
  intro d cnt w s h hd
  have hlen := fieldPoints_length w cnt.toNat
  obtain ⟨hresponse, hcount, hitems, hframe⟩ := State.storesVec_writeVec (hlen.symm ▸ hd) (fieldPoints_lt w cnt.toNat)
  rw [hlen] at hcount hframe
  refine ⟨_, exec_pgen_of_inRange h hd, hresponse, hcount, ?first, ?next, hframe⟩
  all_goals rw [hitems]
  case first =>
    intro hpos
    rw [fieldPoints_getD w hpos, gfPow_one w (Width.two_lt_pow w)]
  case next =>
    intro j hj
    rw [fieldPoints_getD w hj, fieldPoints_getD w (Nat.lt_of_succ_lt hj), gfPow_succ w (Width.two_lt_pow w)]

end Sys2Proof.Machine

/-! The Lagrange basis, interpolation and family 0x5_ (spec/45_lagrange.md). The one idea: row k of the basis is the product of
v + x_j over the points j ≠ k, over the same product at v = x_k; so it is 1 at point k and 0 at the others, and evaluation,
which is linear in the coefficients, carries this to every linear combination of the rows. -/

namespace Sys2Proof.Machine

/-! ## Denominators (R135, R137) -/

section

variable (w : Width) {x : List Nat}

theorem gfAdd_eq_zero_iff {a b : Nat} : gfAdd a b = 0 ↔ a = b := Nat.xor_eq_zero_iff

/-- A product is 0 exactly if a factor is, because the residues are a field. -/
theorem gfProd_eq_zero_iff {l : List Nat} (hl : ∀ v ∈ l, v < 2 ^ w.n) : gfProd w l = 0 ↔ 0 ∈ l := by
  have : Fact (Irreducible (bitPoly w.poly)) := ⟨irreducible_poly w⟩
  rw [← residue_eq_zero_iff w (gfProd_lt w hl), residue_gfProd, List.prod_eq_zero_iff, List.mem_map]
  constructor
  · rintro ⟨v, hv, hzero⟩
    exact (residue_eq_zero_iff w (hl v hv)).1 hzero ▸ hv
  · exact fun hzero => ⟨0, hzero, residue_zero w⟩

/-- The value of a numerator: the product of v + x_j over the points j ≠ k. -/
def pointProduct (x : List Nat) (k v : Nat) : Nat := gfProd w ((x.eraseIdx k).map fun xj => gfAdd v xj)

theorem basisDenominator_eq (x : List Nat) (k : Nat) : basisDenominator w x k = pointProduct w x k (x.getD k 0) := rfl

theorem lt_of_mem_eraseIdx (hx : ∀ v ∈ x, v < 2 ^ w.n) (k : Nat) : ∀ v ∈ x.eraseIdx k, v < 2 ^ w.n :=
  fun v hv => hx v (List.mem_of_mem_eraseIdx hv)

variable (hx : ∀ v ∈ x, v < 2 ^ w.n)

include hx

theorem getD_lt (j : Nat) : x.getD j 0 < 2 ^ w.n := by
  rw [List.getD_eq_getElem?_getD]
  cases h : x[j]? with
  | none => exact Nat.two_pow_pos _
  | some v => exact hx v (List.mem_of_getElem? h)

theorem pointProduct_lt {v : Nat} (hv : v < 2 ^ w.n) (k : Nat) : pointProduct w x k v < 2 ^ w.n :=
  gfProd_lt w (List.forall_mem_map.2 fun xj hxj => gfAdd_lt hv (lt_of_mem_eraseIdx w hx k xj hxj))

theorem basisDenominator_lt (k : Nat) : basisDenominator w x k < 2 ^ w.n := pointProduct_lt w hx (getD_lt w hx k) k

theorem pointProduct_eq_zero_iff {v : Nat} (hv : v < 2 ^ w.n) {k : Nat} :
    pointProduct w x k v = 0 ↔ ∃ j, ∃ h : j < x.length, j ≠ k ∧ x[j] = v := by
  rw [pointProduct, gfProd_eq_zero_iff w
      (List.forall_mem_map.2 fun xj hxj => gfAdd_lt hv (lt_of_mem_eraseIdx w hx k xj hxj)), List.mem_map]
  simp only [gfAdd_eq_zero_iff, eq_comm (a := v), exists_eq_right, List.mem_eraseIdx_iff_getElem]

/-- A denominator vanishes exactly if its point stands at a second index. -/
theorem basisDenominator_eq_zero_iff {k : Nat} (hk : k < x.length) :
    basisDenominator w x k = 0 ↔ ∃ j, ∃ h : j < x.length, j ≠ k ∧ x[j] = x[k] := by
  rw [basisDenominator_eq, pointProduct_eq_zero_iff w hx (getD_lt w hx k), List.getD_eq_getElem x 0 hk]

theorem nodup_iff_basisDenominator_ne_zero : x.Nodup ↔ ∀ k < x.length, basisDenominator w x k ≠ 0 := by
  rw [List.nodup_iff_injective_getElem]
  constructor
  · intro hinj k hk hzero
    obtain ⟨j, hj, hne, heq⟩ := (basisDenominator_eq_zero_iff w hx hk).1 hzero
    exact hne (Fin.mk.inj (hinj (a₁ := ⟨j, hj⟩) (a₂ := ⟨k, hk⟩) heq))
  · rintro hden ⟨i, hi⟩ ⟨j, hj⟩ heq
    by_contra hne
    exact hden j hj ((basisDenominator_eq_zero_iff w hx hj).2 ⟨i, hi, fun h => hne (Fin.ext h), heq⟩)

/-- The check of `LPRE` (R137) passes exactly on pairwise distinct points. -/
theorem singularPoints_eq_false_iff : singularPoints w x = false ↔ x.Nodup := by
  rw [nodup_iff_basisDenominator_ne_zero w hx]
  simp [singularPoints]

/-! ## The rows of the basis (R135) -/

theorem basisRow_lt (k : Nat) : ∀ v ∈ basisRow w x k, v < 2 ^ w.n := by
  rw [basisRow, strict_eq]
  exact List.forall_mem_map.2 fun c hc => gfMul_lt w
    (polyFromRoots_lt w (lt_of_mem_eraseIdx w hx k) c hc) (gfInv_lt w (basisDenominator_lt w hx k))

/-- Row k evaluated at v. -/
theorem horner_basisRow (k : Nat) {v : Nat} (hv : v < 2 ^ w.n) :
    horner w (basisRow w x k) v = gfMul w (pointProduct w x k v) (gfInv w (basisDenominator w x k)) := by
  refine residue_injective w (horner_lt w (basisRow_lt w hx k) hv)
    (gfMul_lt w (pointProduct_lt w hx hv k) (gfInv_lt w (basisDenominator_lt w hx k))) ?_
  rw [basisRow, strict_eq, residue_horner_map_gfMul, basisNumerator, residue_horner_polyFromRoots, residue_gfMul,
    pointProduct]

/-- Row k is 1 at its own point and 0 at the others. -/
theorem horner_basisRow_point (hnodup : x.Nodup) {k j : Nat} (hk : k < x.length) (hj : j < x.length) :
    horner w (basisRow w x k) (x.getD j 0) = if j = k then 1 else 0 := by
  have hden : basisDenominator w x k < 2 ^ w.n := basisDenominator_lt w hx k
  have hxj : x.getD j 0 < 2 ^ w.n := getD_lt w hx j
  rw [horner_basisRow w hx k hxj]
  split_ifs with hjk
  · subst hjk
    exact gfMul_gfInv w hden ((nodup_iff_basisDenominator_ne_zero w hx).1 hnodup j hj)
  · have hzero : pointProduct w x k (x.getD j 0) = 0 :=
      (pointProduct_eq_zero_iff w hx hxj).2 ⟨j, hj, hjk, (List.getD_eq_getElem x 0 hj).symm⟩
    have hinv := gfInv_lt w hden
    rw [hzero, gfMul_comm w (Nat.two_pow_pos _) hinv, gfMul_zero w hinv]

/-! ## The stored basis set (R136) -/

theorem lagrangeBasis_lt : ∀ v ∈ lagrangeBasis w x, v < 2 ^ w.n := by
  intro v hv
  obtain ⟨k, -, hrow⟩ := List.mem_flatMap.1 hv
  exact basisRow_lt w hx k v hrow

end

/-- Row k of a stored basis set of m rows: the m coefficients from index k·m on (R136). -/
def storedRow (basis : List Nat) (m k : Nat) : List Nat := (basis.drop (k * m)).take m

theorem storedRow_length {basis : List Nat} {m k : Nat} (hlen : basis.length = m * m) (hk : k < m) :
    (storedRow basis m k).length = m := by
  have hrows : (k + 1) * m ≤ m * m := Nat.mul_le_mul_right m hk
  rw [Nat.succ_mul] at hrows
  rw [storedRow, List.length_take, List.length_drop, hlen]
  omega

theorem storedRow_getD (basis : List Nat) {m j : Nat} (k : Nat) (hj : j < m) :
    (storedRow basis m k).getD j 0 = basis.getD (k * m + j) 0 := by
  simp [storedRow, List.getD_eq_getElem?_getD, hj]

/-- The rows before row k take k·m places. -/
theorem storedRow_lagrangeBasis (w : Width) {x : List Nat} {k : Nat} (hk : k < x.length) :
    storedRow (lagrangeBasis w x) x.length k = basisRow w x k := by
  obtain ⟨r, hr⟩ := Nat.exists_eq_add_of_lt hk
  have hbefore : ((List.range k).flatMap (basisRow w x)).length = k * x.length := by
    rw [List.length_flatMap,
      List.map_congr_left fun i hi => basisRow_length w ((List.mem_range.1 hi).trans hk)]
    simp
  have hsplit : lagrangeBasis w x = (List.range k).flatMap (basisRow w x) ++ (basisRow w x k ++
      (List.range r).flatMap fun i => basisRow w x (k + (i + 1))) := by
    rw [lagrangeBasis, show List.range x.length = List.range (k + (r + 1)) by rw [hr, Nat.add_assoc], List.range_add,
      List.range_succ_eq_map]
    simp [List.flatMap_append, List.flatMap_map]
  rw [storedRow, hsplit, List.drop_left' hbefore, List.take_left' (basisRow_length w hk)]

/-! ## Interpolation (R138, R140) -/

section

variable (w : Width) {basis y : List Nat}

theorem interpolate_getD (basis : List Nat) {j : Nat} (hj : j < y.length) :
    (interpolate w basis y).getD j 0 = gfSum ((List.range y.length).map fun k =>
      gfMul w (y.getD k 0) (basis.getD (k * y.length + j) 0)) := by
  simp [interpolate, hj]

theorem interpolate_lt (hbasis : ∀ v ∈ basis, v < 2 ^ w.n) (hy : ∀ v ∈ y, v < 2 ^ w.n) :
    ∀ v ∈ interpolate w basis y, v < 2 ^ w.n :=
  List.forall_mem_map.2 fun _ _ => gfSum_lt <| List.forall_mem_map.2 fun _ _ =>
    gfMul_lt w (getD_lt w hy _) (getD_lt w hbasis _)

/-- A sum over a range, of sums over a range, may be taken in either order. -/
theorem sum_range_comm {M : Type*} [AddCommMonoid M] (m n : Nat) (f : Nat → Nat → M) :
    ((List.range m).map fun j => ((List.range n).map fun k => f j k).sum).sum =
      ((List.range n).map fun k => ((List.range m).map fun j => f j k).sum).sum :=
  Finset.sum_comm (s := Finset.range m) (t := Finset.range n)

/-- The value of a linear combination of stored rows is that combination of the rows' values. -/
theorem residue_horner_interpolate (hlen : basis.length = y.length * y.length) (v : Nat) :
    residue w (horner w (interpolate w basis y) v) = ((List.range y.length).map fun k =>
      residue w (y.getD k 0) * residue w (horner w (storedRow basis y.length k) v)).sum := by
  have hcoeff : ∀ j ∈ List.range y.length, residue w ((interpolate w basis y).getD j 0) * residue w v ^ j =
      ((List.range y.length).map fun k =>
        residue w (y.getD k 0) * (residue w (basis.getD (k * y.length + j) 0) * residue w v ^ j)).sum := by
    intro j hj
    rw [interpolate_getD w basis (List.mem_range.1 hj), residue_gfSum, List.map_map, ← List.sum_map_mul_right]
    simp only [Function.comp_apply, residue_gfMul, mul_assoc]
  have hrow : ∀ k ∈ List.range y.length, residue w (y.getD k 0) * residue w (horner w (storedRow basis y.length k) v) =
      ((List.range y.length).map fun j =>
        residue w (y.getD k 0) * (residue w (basis.getD (k * y.length + j) 0) * residue w v ^ j)).sum := by
    intro k hk
    rw [List.sum_map_mul_left, residue_horner_eq_sum, storedRow_length hlen (List.mem_range.1 hk)]
    congr 2
    exact List.map_congr_left fun j hj => by rw [storedRow_getD basis k (List.mem_range.1 hj)]
  rw [residue_horner_eq_sum, interpolate_length, List.map_congr_left hcoeff, sum_range_comm, List.map_congr_left hrow]

/-- Interpolation from the basis of distinct points: at point k only row k counts, and it counts once. -/
theorem horner_interpolate_lagrangeBasis {x : List Nat} (hx : ∀ v ∈ x, v < 2 ^ w.n) (hy : ∀ v ∈ y, v < 2 ^ w.n)
    (hnodup : x.Nodup) (hlen : x.length = y.length) {k : Nat} (hk : k < x.length) :
    horner w (interpolate w (lagrangeBasis w x) y) (x.getD k 0) = y.getD k 0 := by
  have hbasis : (lagrangeBasis w x).length = y.length * y.length := by rw [lagrangeBasis_length, hlen]
  have hterm : ∀ i ∈ List.range y.length,
      residue w (y.getD i 0) * residue w (horner w (storedRow (lagrangeBasis w x) y.length i) (x.getD k 0)) =
        if k = i then residue w (y.getD i 0) else 0 := by
    intro i hi
    have hix : i < x.length := hlen ▸ List.mem_range.1 hi
    rw [← hlen, storedRow_lagrangeBasis w hix, horner_basisRow_point w hx hnodup hix hk]
    split_ifs <;> simp
  refine residue_injective w (horner_lt w (interpolate_lt w (lagrangeBasis_lt w hx) hy) (getD_lt w hx k))
    (getD_lt w hy k) ?_
  rw [residue_horner_interpolate w hbasis, List.map_congr_left hterm]
  exact (Finset.sum_ite_eq (Finset.range y.length) k fun i => residue w (y.getD i 0)).trans
    (if_pos (Finset.mem_range.2 (hlen ▸ hk)))

end

/-- Settles O56: the value at a point is the combination of the rows' values there. -/
theorem interpolationPassesThroughThePoints : Obligations.InterpolationPassesThroughThePoints :=
  fun w _ _ hx hy hnodup hlen _ hk => horner_interpolate_lagrangeBasis w hx hy hnodup hlen hk

/-! ## `LPRE` and `LINT`, their checks passed (R137, R139) -/

section

variable {s : State} {w : Width} {d a b : DReg}

theorem exec_lpre_of_nodup (h : s.Ready w) (ha : s.VecInRange w a) (hd : s.DestInRange w d (s.len a * s.len a))
    (hnodup : (s.readVec w a).Nodup) :
    exec (.lpre d a) s = .next (s.writeVec w d (lagrangeBasis w (s.readVec w a))).ok := by
  have hpass : singularPoints w (s.readVec w a) = false :=
    (singularPoints_eq_false_iff w fun _ => State.readVec_lt).2 hnodup
  rw [exec, execLpre, whenConfigured_of_ready h.left h.right, if_neg (not_not.2 ha), if_neg (not_not.2 hd),
    if_neg (Bool.not_eq_true _ ▸ hpass)]

theorem exec_lint_of_inRange (h : s.Ready w) (hb0 : s.len b ≠ 0) (hlen : s.len a = s.len b * s.len b)
    (ha : s.VecInRange w a) (hb : s.VecInRange w b) (hd : s.DestInRange w d (s.len b)) :
    exec (.lint d a b) s = .next (s.writeVec w d (interpolate w (s.readVec w a) (s.readVec w b))).ok := by
  have hinput : ¬ (s.len b = 0 ∨ s.len a = 0 ∨ s.len a ≠ s.len b * s.len b) := by simp [hb0, hlen]
  rw [exec, execLint, whenConfigured_of_ready h.left h.right, if_neg hinput, if_neg (not_not.2 ha),
    if_neg (not_not.2 hb), if_neg (not_not.2 hd)]

end

/-- Settles O54: what is stored is the basis of the points as they stand before the store. -/
theorem lpreWritesTheLagrangeBasis : Obligations.LpreWritesTheLagrangeBasis := by
  intro d a w s h ha hd hnodup
  have hlen : (lagrangeBasis w (s.readVec w a)).length = s.len a * s.len a := by simp
  have hpoints : ∀ v ∈ s.readVec w a, v < 2 ^ w.n := fun _ => State.readVec_lt
  have hstore := State.storesVec_writeVec (hlen.symm ▸ hd) (lagrangeBasis_lt w hpoints)
  refine ⟨_, exec_lpre_of_nodup h ha hd hnodup, hstore.response, hstore.len.trans hlen, fun k j hk hj => ?_,
    hlen ▸ hstore.frame⟩
  rw [← s.readVec_length w a] at hk hj ⊢
  rw [hstore.items, ← storedRow, storedRow_lagrangeBasis w hk]
  exact horner_basisRow_point w hpoints hnodup hk hj

/-- Settles O55: the combination of the rows as they stand before the store is what is stored. -/
theorem lintWritesTheLinearCombination : Obligations.LintWritesTheLinearCombination := by
  intro d a b w s h hb0 hab ha hb hd
  have hlen : (interpolate w (s.readVec w a) (s.readVec w b)).length = s.len b := by simp
  have hstore := State.storesVec_writeVec (hlen.symm ▸ hd)
    (interpolate_lt w (fun _ => State.readVec_lt) fun _ => State.readVec_lt)
  refine ⟨_, exec_lint_of_inRange h hb0 hab ha hb hd, hstore.response, hstore.len.trans hlen, fun j hj => ?_,
    hlen ▸ hstore.frame⟩
  rw [← s.readVec_length w b] at hj ⊢
  rw [hstore.items, interpolate_getD w _ hj]

end Sys2Proof.Machine

/-! The convolution and `VCONV` (spec/46_vector.md). The one idea: coefficient k is the sum over i of the items of the second
operand moved up by i, so exchanging the two sums turns the value of the convolution into the product of the values. -/

namespace Sys2Proof.Machine

/-! ## The coefficients of a convolution (R149) -/

/-- A result of the convolution has a place for the product of every item of one operand with every item of the other. -/
theorem add_lt_convLength {la lb i j : Nat} (hi : i < la) (hj : j < lb) : i + j < convLength la lb := by
  rw [convLength, if_neg (by omega)]
  omega

/-- A sum over a range, whose terms outside a window in it are 0, is the sum over the window. -/
theorem sum_range_window {M : Type*} [AddCommMonoid M] {i m n : Nat} (f : Nat → M) (hin : ∀ j < m, i + j < n) :
    ((List.range n).map fun k => if i ≤ k ∧ k - i < m then f (k - i) else 0).sum = ((List.range m).map f).sum := by
  have hwindow : {k ∈ Finset.range n | i ≤ k ∧ k - i < m} = Finset.Ico i (i + m) := by
    ext k
    have hk := hin (k - i)
    simp only [Finset.mem_filter, Finset.mem_range, Finset.mem_Ico]
    omega
  change ∑ k ∈ Finset.range n, (if i ≤ k ∧ k - i < m then f (k - i) else 0) = ∑ j ∈ Finset.range m, f j
  rw [← Finset.sum_filter, hwindow, Finset.sum_Ico_eq_sum_range]
  simp

section

variable (w : Width) {x y : List Nat}

theorem convolve_getD {k : Nat} (hk : k < convLength x.length y.length) :
    (convolve w x y).getD k 0 = convCoefficient w x y k := by
  simp [convolve, hk]

theorem convolve_lt (hx : ∀ v ∈ x, v < 2 ^ w.n) (hy : ∀ v ∈ y, v < 2 ^ w.n) : ∀ v ∈ convolve w x y, v < 2 ^ w.n :=
  List.forall_mem_map.2 fun k _ => gfSum_lt <| List.forall_mem_map.2 fun i _ => by
    split
    · exact gfMul_lt w (getD_lt w hx i) (getD_lt w hy (k - i))
    · exact Nat.two_pow_pos _

theorem residue_convCoefficient (k : Nat) :
    residue w (convCoefficient w x y k) = ((List.range x.length).map fun i =>
      if i ≤ k ∧ k - i < y.length then residue w (x.getD i 0) * residue w (y.getD (k - i) 0) else 0).sum := by
  rw [convCoefficient, residue_gfSum, List.map_map]
  simp only [Function.comp_def, apply_ite (residue w), residue_gfMul, residue_zero]

/-! ## The value of a convolution (R150) -/

/-- What coefficient i adds to the value of a polynomial at a point. -/
noncomputable def valueTerm (c : List Nat) (v i : Nat) : Residues w := residue w (c.getD i 0) * residue w v ^ i

theorem residue_horner_eq_sum_valueTerm (c : List Nat) (v : Nat) :
    residue w (horner w c v) = ((List.range c.length).map (valueTerm w c v)).sum := residue_horner_eq_sum w v c

/-- The terms i and j of the operands meet in the term i + j of the convolution. -/
theorem valueTerm_convolve (v : Nat) {k : Nat} (hk : k < convLength x.length y.length) :
    valueTerm w (convolve w x y) v k = ((List.range x.length).map fun i =>
      if i ≤ k ∧ k - i < y.length then valueTerm w x v i * valueTerm w y v (k - i) else 0).sum := by
  rw [valueTerm, convolve_getD w hk, residue_convCoefficient, ← List.sum_map_mul_right]
  congr 1
  refine List.map_congr_left fun i _ => ?_
  split_ifs with hwindow
  · obtain ⟨hik, -⟩ := hwindow
    rw [valueTerm, valueTerm, ← pow_mul_pow_sub _ hik]
    ring
  · exact zero_mul _

/-- The value of a convolution is the product of the values of its operands, empty operands included. -/
theorem residue_horner_convolve (v : Nat) :
    residue w (horner w (convolve w x y) v) = residue w (horner w x v) * residue w (horner w y v) := by
  have hitem : ∀ i ∈ List.range x.length, ((List.range (convLength x.length y.length)).map fun k =>
        if i ≤ k ∧ k - i < y.length then valueTerm w x v i * valueTerm w y v (k - i) else 0).sum =
      valueTerm w x v i * residue w (horner w y v) := by
    intro i hi
    rw [residue_horner_eq_sum_valueTerm w y, ← List.sum_map_mul_left]
    exact sum_range_window (fun j => valueTerm w x v i * valueTerm w y v j) fun _ hj =>
      add_lt_convLength (List.mem_range.1 hi) hj
  rw [residue_horner_eq_sum_valueTerm, convolve_length,
    List.map_congr_left fun k hk => valueTerm_convolve w v (List.mem_range.1 hk), sum_range_comm,
    List.map_congr_left hitem, List.sum_map_mul_right, ← residue_horner_eq_sum_valueTerm]

theorem horner_convolve (hx : ∀ v ∈ x, v < 2 ^ w.n) (hy : ∀ v ∈ y, v < 2 ^ w.n) {v : Nat} (hv : v < 2 ^ w.n) :
    horner w (convolve w x y) v = gfMul w (horner w x v) (horner w y v) :=
  residue_injective w (horner_lt w (convolve_lt w hx hy) hv) (gfMul_lt w (horner_lt w hx hv) (horner_lt w hy hv))
    (by rw [residue_horner_convolve, residue_gfMul])

end

/-! ## `VCONV`, its checks passed (R149) -/

theorem exec_vconv_of_inRange {s : State} {w : Width} {d a b : DReg} (h : s.Ready w) (ha : s.VecInRange w a)
    (hb : s.VecInRange w b) (hd : s.DestInRange w d (convLength (s.len a) (s.len b))) :
    exec (.vconv d a b) s = .next (s.writeVec w d (convolve w (s.readVec w a) (s.readVec w b))).ok := by
  rw [exec, execVconv, whenConfigured_of_ready h.left h.right, if_neg (not_not.2 ha), if_neg (not_not.2 hb),
    if_neg (not_not.2 hd)]

/-- Settles O60: what is stored is the convolution of the operands as they stand before the store. -/
theorem vconvWritesTheProductPolynomial : Obligations.VconvWritesTheProductPolynomial := by
  intro d a b w s h ha hb hd
  have hxlt : ∀ v ∈ s.readVec w a, v < 2 ^ w.n := fun _ => State.readVec_lt
  have hylt : ∀ v ∈ s.readVec w b, v < 2 ^ w.n := fun _ => State.readVec_lt
  have hlen : (convolve w (s.readVec w a) (s.readVec w b)).length = convLength (s.len a) (s.len b) := by simp
  have hstore := State.storesVec_writeVec (hlen.symm ▸ hd) (convolve_lt w hxlt hylt)
  have hcount := hstore.len.trans hlen
  refine ⟨_, exec_vconv_of_inRange h ha hb hd, hstore.response, fun hempty => hcount.trans (if_pos hempty),
    fun ha0 hb0 => hcount.trans (if_neg (not_or.2 ⟨ha0, hb0⟩)), fun k hk => ?_, fun x hx => ?_, hstore.len ▸ hstore.frame⟩
  · rw [hcount, ← s.readVec_length w a, ← s.readVec_length w b] at hk
    rw [hstore.items, convolve_getD w hk, convCoefficient, s.readVec_length, s.readVec_length]
  · rw [hstore.items, horner_convolve w hxlt hylt hx]

end Sys2Proof.Machine

/-! The faulted state and the causes of errors (spec/60_exceptions.md R155 to R164). Two ideas: `step_err_cases` says once
what a step can do to `ERR`, and `RaisesExactly` carries through a command's checks which of its operand errors it
raises. -/

namespace Sys2Proof.Machine

/-! ## Every step has a successor -/

/-- Settles O9: an idle step, a reset and an illegal word answer a next state, and so does every command. -/
theorem everyStepAnswersANextState : Obligations.EveryStepAnswersANextState := by
  intro s
  rcases step_cases s with ⟨-, h⟩ | ⟨rest, -, h⟩ | ⟨w, rest, x, -, -, h⟩ | ⟨w, rest, i, -, -, h⟩
  · exact ⟨_, h⟩
  · exact ⟨_, h⟩
  · exact ⟨_, h⟩
  · obtain ⟨t, ht, -⟩ := exec_effect i { s with pending := rest }
    exact ⟨t, h.trans ht⟩

/-! ## In the faulted state (R162) -/

/-- The commands that also execute in the faulted state (R162). -/
def runsFaulted : Instr → Bool
  | .stat => true
  | .rdecmd => true
  | .clrerr => true
  | _ => false

theorem encode_of_runsFaulted {i : Instr} (h : runsFaulted i = true) :
    encode i = 0x02000000 ∨ encode i = 0x03000000 ∨ encode i = 0x04000000 := by
  cases i with
  | stat => exact .inl rfl
  | rdecmd => exact .inr (.inl rfl)
  | clrerr => exact .inr (.inr rfl)
  | _ => cases h

/-- Every other command makes the faulted check before anything else (R52). -/
theorem exec_of_faulted {i : Instr} (h : runsFaulted i = false) {s : State} (herr : s.err ≠ 0) :
    exec i s = .next (s.respond faultedCode 0) := by
  cases i with
  | stat | rdecmd | clrerr => cases h
  | nop | cfg | mwb | mrb | dbase | dlen | dget => exact congrArg _ (whenRunning_of_faulted herr _)
  | _ => exact congrArg _ (whenConfigured_of_faulted herr _ _)

theorem illegalCommand_of_faulted {s : State} (h : s.err ≠ 0) (w : Word) :
    illegalCommand w s = s.respond faultedCode 0 := whenRunning_of_faulted h _

/-- Settles O8: the word is illegal, or it is that of a command that makes the faulted check first. -/
theorem faultedUnitAnswersFaulted : Obligations.FaultedUnitAnswersFaulted := by
  intro s w rest hp herr hstat hrdecmd hclrerr
  rw [step_event hp, execEvent]
  cases hd : decode w with
  | error x =>
    rw [execWord_of_error hd]
    exact congrArg _ (illegalCommand_of_faulted (s := { s with pending := rest }) herr w)
  | ok i =>
    have hi : runsFaulted i = false := by
      rw [← encodeOfDecode w i hd] at hstat hrdecmd hclrerr
      rw [Bool.eq_false_iff]
      intro hi
      rcases encode_of_runsFaulted hi with h | h | h
      · exact hstat h
      · exact hrdecmd h
      · exact hclrerr h
    exact (execWord_of_ok hd _).trans (exec_of_faulted (s := { s with pending := rest }) hi herr)

/-! ## Who writes `ERR` (R160, R163) -/

/-- A command keeps `ERR`, is `CLRERR`, or raises. -/
theorem Effect.err_written {i : Instr} {s t : State} (h : Effect i s t) :
    t.err = s.err ∨ (i = .clrerr ∧ t.err = 0) ∨ ∃ x, t = s.raiseBy i x := by
  cases h with
  | raised x => exact .inr (.inr ⟨x, rfl⟩)
  | cleared hi => exact .inr (.inl ⟨hi, rfl⟩)
  | _ => exact .inl (by simp)

theorem illegalCommand_err_cases (w : Word) (s : State) :
    (illegalCommand w s).err = s.err ∨ illegalCommand w s = s.raise w .illegalCommand := by
  by_cases herr : s.err = 0
  · exact .inr (illegalCommand_of_running herr w)
  · exact .inl (by rw [illegalCommand_of_faulted herr, State.respond_err])

/-- Everything a step can do to `ERR`: keep it, clear it by a reset or by `CLRERR`, or raise an error by the command word
that it takes. -/
theorem step_err_cases {s t : State} (h : step s = .next t) :
    t.err = s.err ∨
    (∃ rest, s.pending = .reset :: rest ∧ t.err = 0) ∨
    (∃ rest, s.pending = .command 0x04000000 :: rest ∧ t.err = 0) ∨
    (∃ w rest x, s.pending = .command w :: rest ∧ t = ({ s with pending := rest } : State).raise w x) := by
  rcases step_cases s with ⟨-, hs⟩ | ⟨rest, hp, hs⟩ | ⟨w, rest, x, hp, -, hs⟩ | ⟨w, rest, i, hp, hd, hs⟩ <;>
    rw [hs] at h
  · exact .inl (Host.Outcome.next.inj h ▸ rfl)
  · exact .inr (.inl ⟨rest, hp, Host.Outcome.next.inj h ▸ rfl⟩)
  · obtain rfl := Host.Outcome.next.inj h
    rcases illegalCommand_err_cases w { s with pending := rest } with herr | hraise
    · exact .inl herr
    · exact .inr (.inr (.inr ⟨w, rest, _, hp, hraise⟩))
  · obtain rfl := encodeOfDecode w i hd
    rcases (effect_of_exec h).err_written with herr | ⟨rfl, herr⟩ | ⟨x, hraise⟩
    · exact .inl herr
    · exact .inr (.inr (.inl ⟨rest, hp, herr⟩))
    · exact .inr (.inr (.inr ⟨_, rest, x, hp, hraise⟩))

/-- Settles O10: of the ways in which a step can write `ERR`, only raising leaves it other than 0. -/
theorem enteringTheFaultedStateWritesOnlyErrAndEcmd : Obligations.EnteringTheFaultedStateWritesOnlyErrAndEcmd := by
  intro s t h hs ht
  rcases step_err_cases h with herr | ⟨-, -, herr⟩ | ⟨-, -, herr⟩ | ⟨w, rest, x, hp, hraise⟩
  · exact absurd (herr.trans hs) ht
  · exact absurd herr ht
  · exact absurd herr ht
  · have hpos : 0 < x.code.toNat := Nat.pos_of_ne_zero (BitVec.toNat_ne_iff_ne.2 x.code_ne_zero)
    exact ⟨w, rest, x, hp, hpos, x.code_le, hraise⟩

/-- Settles O11: of the ways in which a step can write `ERR`, only `CLRERR` and reset leave it 0. -/
theorem onlyClrerrAndResetLeaveTheFaultedState : Obligations.OnlyClrerrAndResetLeaveTheFaultedState := by
  intro s
  refine ⟨fun t h hs ht => ?only, fun rest hp => ?clrerr, fun rest hp => ⟨_, step_event hp, rfl, rfl⟩⟩
  case only =>
    rcases step_err_cases h with herr | ⟨rest, hp, -⟩ | ⟨rest, hp, -⟩ | ⟨w, rest, x, -, hraise⟩
    · exact absurd (herr.symm.trans ht) hs
    · exact ⟨rest, .inr hp⟩
    · exact ⟨rest, .inl hp⟩
    · exact absurd ((congrArg State.err hraise).symm.trans ht) x.code_ne_zero
  case clrerr =>
    rw [stepRunsTheDecodedCommand s _ rest .clrerr hp (decodeOfEncode .clrerr)]
    rfl

/-! ## The operand errors of a command (R157) -/

/-- `OperandError s i x`: executing `i` in the state `s`, not faulted, meets the cause of the error `x`, one of
`UnsupportedConfig`, `SizeMismatch`, `InterpInput` and `Singular`, and of no error that is checked before it (R157, R164). -/
inductive OperandError (s : State) : Instr → ErrorKind → Prop where
  /-- λ selects no width (R61). -/
  | unsupportedWidth {lam : Half} (h : widthOf lam.toNat = none) : OperandError s (.cfg lam) .unsupportedConfig
  /-- `VADD` on unequal lengths (R146). -/
  | vaddLengths {d a b : DReg} (hl : s.lambda ≠ none) (h : s.len a ≠ s.len b) : OperandError s (.vadd d a b) .sizeMismatch
  /-- `VDOT` on unequal lengths (R148). -/
  | vdotLengths {d : EReg} {a b : DReg} (hl : s.lambda ≠ none) (h : s.len a ≠ s.len b) :
      OperandError s (.vdot d a b) .sizeMismatch
  /-- `LINT` on operands that are no basis set and values (R139). -/
  | basisCount {d a b : DReg} (hl : s.lambda ≠ none) (h : s.len b = 0 ∨ s.len a = 0 ∨ s.len a ≠ s.len b * s.len b) :
      OperandError s (.lint d a b) .interpInput
  /-- The inverse of zero (R86). -/
  | zeroInverse {d a : EReg} (hl : s.lambda ≠ none) (h : s.elem a = 0) : OperandError s (.einv d a) .singular
  /-- `LPRE`, its ranges in memory, on points of which two are equal (R137). -/
  | equalPoints {d a : DReg} {w : Width} (hl : s.lambda = some w) (ha : s.VecInRange w a)
      (hd : s.DestInRange w d (s.len a * s.len a)) (h : ¬ (s.readVec w a).Nodup) : OperandError s (.lpre d a) .singular

theorem OperandError.lambda_ne_none {i : Instr} {s : State} {x : ErrorKind} (h : OperandError s i x)
    (hi : runsUnconfigured i = false) : s.lambda ≠ none := by
  cases h with
  | unsupportedWidth => cases hi
  | equalPoints hl => simp [hl]
  | _ => assumption

/-- The cause of the operand error of `LPRE`, said of the active width (R137). -/
theorem OperandError.lpre_cause {s : State} {w : Width} {d a : DReg} {x : ErrorKind}
    (h : OperandError s (.lpre d a) x) (hl : s.lambda = some w) :
    s.VecInRange w a ∧ s.DestInRange w d (s.len a * s.len a) ∧ ¬ (s.readVec w a).Nodup := by
  cases h with
  | equalPoints hl' ha hd hequal =>
    obtain rfl := Option.some.inj (hl'.symm.trans hl)
    exact ⟨ha, hd, hequal⟩

/-- The state `t`, in which the command `i` on `s` ends, has latched exactly the operand error whose cause `i` met;
`Unconfigured` and `Bounds` are left open. -/
def RaisesExactly (i : Instr) (s t : State) : Prop :=
  ∀ x : ErrorKind, x ≠ .unconfigured → x ≠ .bounds → (t.err = x.code ↔ OperandError s i x)

theorem ErrorKind.code_inj {x y : ErrorKind} : x.code = y.code ↔ x = y := by
  cases x <;> cases y <;> decide

namespace RaisesExactly

variable {i : Instr} {s k : State}

/-- With no check left, a command that does not write `ERR` raises nothing. -/
theorem of_done (hnone : ∀ x, ¬ OperandError s i x) (herr : s.err = 0) (hk : k.err = s.err) : RaisesExactly i s k :=
  fun x _ _ => iff_of_false (fun h => x.code_ne_zero (h.symm.trans (hk.trans herr))) (hnone x)

theorem of_raise {y : ErrorKind} (honly : ∀ x, OperandError s i x ↔ x = y) : RaisesExactly i s (s.raiseBy i y) :=
  fun x _ _ => by rw [honly, State.raiseBy_err, ErrorKind.code_inj, eq_comm]

theorem of_raise_unconfigured (hnone : ∀ x, ¬ OperandError s i x) : RaisesExactly i s (s.raiseBy i .unconfigured) :=
  fun x hx _ => iff_of_false (fun h => hx (ErrorKind.code_inj.1 (Eq.symm h))) (hnone x)

theorem of_raise_bounds (hnone : ∀ x, ¬ OperandError s i x) : RaisesExactly i s (s.raiseBy i .bounds) :=
  fun x _ hx => iff_of_false (fun h => hx (ErrorKind.code_inj.1 (Eq.symm h))) (hnone x)

theorem of_whenRunning (herr : s.err = 0) (hk : RaisesExactly i s k) : RaisesExactly i s (whenRunning s k) := by
  rwa [whenRunning_of_running herr]

/-- Without a configuration no operand is looked at (R52, R64). -/
theorem of_whenConfigured {k : Width → State} (herr : s.err = 0) (hi : runsUnconfigured i = false)
    (hk : ∀ w, s.lambda = some w → RaisesExactly i s (k w)) : RaisesExactly i s (whenConfigured i s k) := by
  rcases whenConfigured_cases i s k with ⟨hne, -⟩ | ⟨-, hl, h⟩ | ⟨w, -, hl, h⟩
  · exact absurd herr hne
  · exact h ▸ of_raise_unconfigured fun x hx => hx.lambda_ne_none hi hl
  · exact h ▸ hk w hl

/-- A check of memory whose failure rules the operand errors out (R164). -/
theorem of_bounds {c : Prop} [Decidable c] (hnone : c → ∀ x, ¬ OperandError s i x) (hk : ¬ c → RaisesExactly i s k) :
    RaisesExactly i s (if c then s.raiseBy i .bounds else k) := by
  split_ifs with h
  · exact of_raise_bounds (hnone h)
  · exact hk h

/-- A check of memory in a command that has no operand error, or none left. -/
theorem of_bounds_of_none {c : Prop} [Decidable c] (hnone : ∀ x, ¬ OperandError s i x) (hk : RaisesExactly i s k) :
    RaisesExactly i s (if c then s.raiseBy i .bounds else k) :=
  of_bounds (fun _ => hnone) fun _ => hk

/-- The check of the command's only operand error `y`; past it none is left. -/
theorem of_check {c : Prop} [Decidable c] {y : ErrorKind} (honly : ∀ x, OperandError s i x → x = y)
    (hc : c ↔ OperandError s i y) (hk : (∀ x, ¬ OperandError s i x) → RaisesExactly i s k) :
    RaisesExactly i s (if c then s.raiseBy i y else k) := by
  split_ifs with h
  · exact of_raise fun x => ⟨honly x, fun hx => hx ▸ hc.1 h⟩
  · exact hk fun x hx => h (hc.2 (honly x hx ▸ hx))

end RaisesExactly

/-- Every command raises its operand error exactly when it meets the cause: its checks, in their order. -/
theorem exec_raisesExactly (i : Instr) {s : State} (herr : s.err = 0) :
    ∃ t, exec i s = .next t ∧ RaisesExactly i s t := by
  cases i with
  -- no operand error
  | nop | dbase | dlen | dget => exact ⟨_, rfl, .of_whenRunning herr (.of_done nofun herr rfl)⟩
  | stat | rdecmd => exact ⟨_, rfl, .of_done nofun herr rfl⟩
  | clrerr => exact ⟨_, rfl, .of_done nofun herr herr.symm⟩
  | mwb | mrb => exact ⟨_, rfl, .of_whenRunning herr (.of_bounds_of_none nofun (.of_done nofun herr rfl))⟩
  | eli | elis | eget | emov | eadd | emul | ecmp | aclr | clmul | clmac | ared | agetl | ageth | lifti =>
    exact ⟨_, rfl, .of_whenConfigured herr rfl fun _ _ => .of_done nofun herr rfl⟩
  | eld =>
    refine ⟨_, rfl, .of_whenConfigured herr rfl fun w _ => ?_⟩
    split
    · exact .of_raise_bounds nofun
    · exact .of_done nofun herr rfl
  | est =>
    refine ⟨_, rfl, .of_whenConfigured herr rfl fun w _ => ?_⟩
    split
    · exact .of_raise_bounds nofun
    · exact .of_done nofun herr (s.memWrite_err _ _ _)
  | peval =>
    exact ⟨_, rfl, .of_whenConfigured herr rfl fun _ _ => .of_bounds_of_none nofun (.of_done nofun herr rfl)⟩
  | pgen =>
    exact ⟨_, rfl, .of_whenConfigured herr rfl fun _ _ =>
      .of_bounds_of_none nofun (.of_done nofun herr (s.writeVec_err _ _ _))⟩
  | vlift | proots | vscale =>
    exact ⟨_, rfl, .of_whenConfigured herr rfl fun _ _ =>
      .of_bounds_of_none nofun (.of_bounds_of_none nofun (.of_done nofun herr (s.writeVec_err _ _ _)))⟩
  | vconv =>
    exact ⟨_, rfl, .of_whenConfigured herr rfl fun _ _ =>
      .of_bounds_of_none nofun (.of_bounds_of_none nofun (.of_bounds_of_none nofun
        (.of_done nofun herr (s.writeVec_err _ _ _))))⟩
  -- the operand error is checked first
  | cfg lam =>
    cases hw : widthOf lam.toNat with
    | none =>
      refine ⟨_, exec_cfg_of_unsupported herr hw, .of_raise fun x => ⟨?_, ?_⟩⟩
      · rintro ⟨⟩; rfl
      · rintro rfl; exact .unsupportedWidth hw
    | some w =>
      refine ⟨_, exec_cfg_of_supported herr hw, .of_done ?_ herr rfl⟩
      rintro x ⟨hnone⟩
      cases hw.symm.trans hnone
  | einv d a =>
    refine ⟨_, rfl, .of_whenConfigured herr rfl fun w hl => .of_check ?only ?cause fun hnone => .of_done hnone herr rfl⟩
    case only => rintro x ⟨⟩; rfl
    case cause => exact ⟨.zeroInverse (by simp [hl]), fun | .zeroInverse _ h => h⟩
  | lint d a b =>
    refine ⟨_, rfl, .of_whenConfigured herr rfl fun w hl => .of_check ?only ?cause fun hnone =>
      .of_bounds_of_none hnone (.of_bounds_of_none hnone (.of_bounds_of_none hnone
        (.of_done hnone herr (s.writeVec_err w d _))))⟩
    case only => rintro x ⟨⟩; rfl
    case cause => exact ⟨.basisCount (by simp [hl]), fun | .basisCount _ h => h⟩
  | vadd d a b =>
    refine ⟨_, rfl, .of_whenConfigured herr rfl fun w hl => .of_check ?only ?cause fun hnone =>
      .of_bounds_of_none hnone (.of_bounds_of_none hnone (.of_bounds_of_none hnone
        (.of_done hnone herr (s.writeVec_err w d _))))⟩
    case only => rintro x ⟨⟩; rfl
    case cause => exact ⟨.vaddLengths (by simp [hl]), fun | .vaddLengths _ h => h⟩
  | vdot d a b =>
    refine ⟨_, rfl, .of_whenConfigured herr rfl fun w hl => .of_check ?only ?cause fun hnone =>
      .of_bounds_of_none hnone (.of_bounds_of_none hnone (.of_done hnone herr rfl))⟩
    case only => rintro x ⟨⟩; rfl
    case cause => exact ⟨.vdotLengths (by simp [hl]), fun | .vdotLengths _ h => h⟩
  -- the ranges are checked first
  | lpre d a =>
    refine ⟨_, rfl, .of_whenConfigured herr rfl fun w hl => .of_bounds ?source fun ha => .of_bounds ?dest fun hd =>
      .of_check ?only ?cause fun hnone => .of_done hnone herr (s.writeVec_err w d _)⟩
    case source => exact fun hout x hx => hout (hx.lpre_cause hl).left
    case dest => exact fun hout x hx => hout (hx.lpre_cause hl).right.left
    case only => rintro x ⟨⟩; rfl
    case cause =>
      have hsing : singularPoints w (s.readVec w a) = true ↔ ¬ (s.readVec w a).Nodup := by
        rw [← singularPoints_eq_false_iff w fun _ => State.readVec_lt, Bool.not_eq_false]
      rw [hsing]
      exact ⟨.equalPoints hl (not_not.1 ha) (not_not.1 hd), fun hx => (hx.lpre_cause hl).right.right⟩

theorem raisesExactly_of_exec {i : Instr} {s t : State} (herr : s.err = 0) (h : exec i s = .next t) :
    RaisesExactly i s t := by
  obtain ⟨u, hu, hraises⟩ := exec_raisesExactly i herr
  obtain rfl : u = t := Host.Outcome.next.inj (hu.symm.trans h)
  exact hraises

/-! ## The causes, error by error -/

/-- λ selects no width, said of the immediate itself (R61). -/
theorem widthOf_toNat_eq_none {lam : Half} : widthOf lam.toNat = none ↔ lam ≠ 4 ∧ lam ≠ 5 ∧ lam ≠ 6 := by
  rw [widthOf_eq_none, ← BitVec.toNat_ne_iff_ne, ← BitVec.toNat_ne_iff_ne, ← BitVec.toNat_ne_iff_ne]
  rfl

/-- Settles O14: each of the three codes belongs to the operand error of its commands. -/
theorem lengthAndConfigurationErrorsExactlyWhen : Obligations.LengthAndConfigurationErrorsExactlyWhen := by
  intro i s t herr hexec
  have hraises := raisesExactly_of_exec herr hexec
  refine ⟨(hraises .unsupportedConfig nofun nofun).trans ⟨?_, ?_⟩, (hraises .sizeMismatch nofun nofun).trans ⟨?_, ?_⟩,
    (hraises .interpInput nofun nofun).trans ⟨?_, ?_⟩⟩
  · intro hx
    cases hx with
    | unsupportedWidth h => exact ⟨_, rfl, widthOf_toNat_eq_none.1 h⟩
  · rintro ⟨lam, rfl, h⟩
    exact .unsupportedWidth (widthOf_toNat_eq_none.2 h)
  · intro hx
    cases hx with
    | vaddLengths hl h => exact ⟨hl, _, _, _, .inl rfl, h⟩
    | vdotLengths hl h => exact ⟨hl, _, _, _, .inr rfl, h⟩
  · rintro ⟨hl, d, a, b, rfl | rfl, h⟩
    · exact .vaddLengths hl h
    · exact .vdotLengths hl h
  · intro hx
    cases hx with
    | basisCount hl h => exact ⟨hl, _, _, _, rfl, h⟩
  · rintro ⟨hl, d, a, b, rfl, h⟩
    exact .basisCount hl h

/-- The ranges of `LPRE` are its points and its destination (R137). -/
theorem forall_checkedRanges_lpre {s : State} {w : Width} {d a : DReg} :
    (∀ r ∈ checkedRanges w (.lpre d a) s, s.InRange r.1 r.2.1 r.2.2) ↔
      s.VecInRange w a ∧ s.DestInRange w d (s.len a * s.len a) := by
  rw [checkedRanges, List.forall_mem_cons, List.forall_mem_singleton]

/-- Settles O16: the code belongs to the operand errors of `EINV` and `LPRE`. -/
theorem singularRaisedExactlyWhen : Obligations.SingularRaisedExactlyWhen := by
  rintro i w s t ⟨herr, hlambda⟩ hexec
  refine (raisesExactly_of_exec herr hexec .singular nofun nofun).trans ⟨?_, ?_⟩
  · intro hx
    cases hx with
    | zeroInverse _ h => exact .inl ⟨_, _, rfl, h⟩
    | equalPoints hl ha hd h =>
      obtain rfl := Option.some.inj (hl.symm.trans hlambda)
      exact .inr ⟨_, _, rfl, forall_checkedRanges_lpre.2 ⟨ha, hd⟩, h⟩
  · rintro (⟨d, a, rfl, h⟩ | ⟨d, a, rfl, hranges, h⟩)
    · exact .zeroInverse (by simp [hlambda]) h
    · obtain ⟨ha, hd⟩ := forall_checkedRanges_lpre.1 hranges
      exact .equalPoints hlambda ha hd h

end Sys2Proof.Machine

/-! The state after reset (spec/70_reset_and_hazards.md R180, R181): the values of its registers, its first responses, and the
invariant. All are said of `State.afterReset`, whatever the instance's parameters and the number of resets before. -/

namespace Sys2Proof.Machine

section

variable (c : Config) (k : Nat) (p : List HostEvent)

/-! ## The registers after reset (R181) -/

@[simp] theorem State.elem_afterReset (i : EReg) : (State.afterReset c k p).elem i = 0 := by
  simp [State.elem]

@[simp] theorem State.base_afterReset (i : DReg) : (State.afterReset c k p).base i = 0 := by
  simp [State.base]

@[simp] theorem State.len_afterReset (i : DReg) : (State.afterReset c k p).len i = 0 := by
  simp [State.len]

@[simp] theorem statusWord_afterReset : statusWord (State.afterReset c k p) = 0 := by
  rw [statusWord_eq, State.afterReset_err, State.afterReset_eq, State.afterReset_lambda]
  rfl

/-! ## The first responses (R181) -/

/-- Returning the number 0 is the answer (OK, 0). -/
theorem State.okData_zero (s : State) : s.okData 0 = s.ok := rfl

theorem exec_stat_afterReset : exec .stat (State.afterReset c k p) = .next (State.afterReset c k p).ok := by
  rw [exec, execStat, statusWord_afterReset, State.okData_zero]

theorem exec_rdecmd_afterReset : exec .rdecmd (State.afterReset c k p) = .next (State.afterReset c k p).ok := by
  obtain ⟨-, hrdecmd, -⟩ := nopRdecmdClrerrComplete (State.afterReset c k p)
  exact hrdecmd

theorem exec_dget_afterReset (d : DReg) :
    exec (.dget d) (State.afterReset c k p) = .next (State.afterReset c k p).ok := by
  rw [exec_dget_of_running (State.afterReset_err c k p), State.len_or_base_eq, State.len_afterReset, State.base_afterReset,
    Nat.zero_mul, State.okData_zero]

/-- No configuration is left, so every command of a marked row raises `Unconfigured` (R64). -/
theorem raises_unconfigured_afterReset {r : OpcodeRow} (hr : r ∈ opcodeRows) (hcfg : r.needsCfg = true) {i : Instr}
    (hsel : r.selects (encode i) = true) : Raises i .unconfigured (State.afterReset c k p) := by
  obtain ⟨hraises, -⟩ := unconfiguredRaisedExactlyByTheMarkedRows i r _ hr hsel (State.afterReset_err c k p)
    (State.afterReset_lambda c k p)
  exact hraises hcfg

end

/-- The reset event is taken first, so the instance keeps its parameters and the events after it are still to come. -/
theorem step_reset {s : State} {rest : List HostEvent} (h : s.pending = .reset :: rest) :
    step s = .next (State.afterReset s.config (s.epoch + 1) rest) := step_event h

/-! ## The obligations -/

/-- Settles O17: a reset leads to `State.afterReset`, whose values and first responses are those of R181. -/
theorem resetLeavesTheStatedValues : Obligations.ResetLeavesTheStatedValues := by
  intro s rest hp
  exact ⟨_, step_reset hp, rfl, rfl, rfl, rfl, State.elem_afterReset _ _ _,
    fun i => ⟨State.base_afterReset _ _ _ i, State.len_afterReset _ _ _ i⟩, rfl, rfl,
    exec_stat_afterReset _ _ _, exec_rdecmd_afterReset _ _ _, exec_dget_afterReset _ _ _,
    fun _ hr hcfg _ hsel => raises_unconfigured_afterReset _ _ _ hr hcfg hsel⟩

/-- Settles O21: the reference machine is one instance of `State.afterReset`. -/
theorem invariantHoldsAfterReset : Obligations.InvariantHoldsAfterReset :=
  ⟨State.reset_eq ▸ State.afterReset_inv _ _ _, State.afterReset_inv⟩

end Sys2Proof.Machine
